-- ==== Sys2Proof/Word.lean ====
section
/-! DEFINITION. The word types of the block: bytes and window offsets (spec/00 R9, spec/20 R63). -/

namespace Sys2Proof

/-- Every register, buffer byte and frame byte is 8 bits wide, unsigned (spec/00 R9). -/
abbrev Byte := BitVec 8

/-- An offset into the register window, 0x000 to 0x7FF: the 11-bit offset of the access port
(spec/20 R60, R63; spec/92 D35). -/
abbrev Offset := BitVec 11

end Sys2Proof
end

