-- ==== Sys2Proof/Machine/Frame.lean ====
section
/-! DEFINITION. The pure functions of the frame codec: rolling transform, checksum, frame construction and frame
check (spec/40 section 1, R117). -/

namespace Sys2Proof.Machine

/-- One header byte; the header is two of them (spec/30 R81). -/
abbrev headerByte : Byte := 0x5A

/-- The rolling transform T of byte `b` at body index `i` (spec/40 R110). -/
def transform (b : Byte) (i : Nat) : Byte := b + BitVec.ofNat 8 (i - 1)

/-- The inverse transform U of wire byte `w` at body index `i` (spec/40 R111). -/
def untransform (w : Byte) (i : Nat) : Byte := w - BitVec.ofNat 8 (i - 1)

/-- T on consecutive body bytes, the first at body index `i` (spec/40 R114). -/
def transformFrom : Nat → List Byte → List Byte
  | _, [] => []
  | i, b :: bs => transform b i :: transformFrom (i + 1) bs

/-- U on consecutive wire bytes, the first at body index `i` (spec/40 R120). -/
def untransformFrom : Nat → List Byte → List Byte
  | _, [] => []
  | i, w :: ws => untransform w i :: untransformFrom (i + 1) ws

/-- The 8-bit sum of a byte sequence (spec/00 R10). -/
def sum8 : List Byte → Byte
  | [] => 0
  | b :: bs => b + sum8 bs

/-- The checksum of an untransformed region (spec/40 R112). -/
def checksum (region : List Byte) : Byte := sum8 region ^^^ 0xFF

/-- LENGTH of a frame with payload `p` (spec/30 R82). -/
def lengthByte (p : List Byte) : Byte := BitVec.ofNat 8 (p.length + 2)

/-- The frame of COMMAND_ID `c` and payload `p` (spec/40 R114); defined by the spec for payloads of at most
253 bytes. -/
def encodeFrame (c : Byte) (p : List Byte) : List Byte :=
  headerByte :: headerByte :: lengthByte p ::
    transformFrom 1 (c :: p ++ [checksum (lengthByte p :: c :: p)])

/-- The three integrity failures of a frame check (spec/40 R117). -/
inductive FrameError where
  /-- step 1 (spec/40 R118) -/
  | malformedHeader
  /-- step 2 (spec/40 R119) -/
  | lengthMismatch
  /-- step 4 (spec/40 R121) -/
  | checksumMismatch
  deriving DecidableEq, Repr

/-- What a frame check returns: `OK(c, P)` or `ERR(code)` (spec/40 R117). -/
inductive FrameResult where
  | accepted (command : Byte) (payload : List Byte)
  | rejected (error : FrameError)
  deriving DecidableEq, Repr

/-- Steps 3 to 5 of the frame check, for a buffer whose LENGTH byte is `len` and whose bytes after LENGTH are
`rest` (spec/40 R120 to R122). -/
def checkBody (len : Byte) (rest : List Byte) : FrameResult :=
  let body := len :: untransformFrom 1 rest
  if body.getD len.toNat 0 ≠ checksum (body.take len.toNat) then .rejected .checksumMismatch
  else .accepted (body.getD 1 0) ((body.take len.toNat).drop 2)

/-- The frame check of a response buffer of `n` bytes whose held bytes are `f` (spec/40 R117). The last arm is no
case of the spec: `f` holds min(n, 258) bytes, so it has three when `n` is at least 5 (DEDUCED, safe:
notes/assumptions/19). -/
def decodeFrame (n : Nat) (f : List Byte) : FrameResult :=
  if n < 5 then .rejected .malformedHeader
  else
    match f with
    | h0 :: h1 :: len :: rest =>
      if h0 ≠ headerByte ∨ h1 ≠ headerByte then .rejected .malformedHeader
      else if n ≠ 3 + len.toNat then .rejected .lengthMismatch
      else checkBody len rest
    | _ => .rejected .malformedHeader

end Sys2Proof.Machine
end

