-- ==== Sys2Proof/Syntax.lean ====
section
/-! DEFINITION. The instructions: one constructor per mnemonic of spec/opcode_table.json, in the table's order. -/

namespace Sys2Proof

/-- The two layers of the instruction set (spec/00 R2): the operations a CTRL write starts (spec/30 R90) and the
three wire commands (spec/30 R88). -/
inductive Instr where
  /-- CTRL 0x00 (spec/43 R180). -/
  | nop
  /-- CTRL 0x01 (spec/40 R115). -/
  | encode
  /-- CTRL 0x02 (spec/40 R123). -/
  | decode
  /-- CTRL 0x03 (spec/41 R141). -/
  | encStatusQuery
  /-- CTRL 0x04 (spec/41 R142). -/
  | encResetWorktime
  /-- CTRL 0x05 (spec/41 R143). -/
  | encSetMode
  /-- CTRL 0x06 (spec/42 R160). -/
  | statusExtract
  /-- CTRL 0x0F (spec/43 R181). -/
  | softReset
  /-- Any other CTRL value `code` (spec/43 R182): the eight ILLEGAL_OP rows of the table. -/
  | illegalOp (code : Byte)
  /-- Wire command 0x01, empty payload (spec/30 R88, spec/41 R141). -/
  | generalStatusQuery
  /-- Wire command 0x09, empty payload (spec/30 R88, spec/41 R142). -/
  | resetWorkTimeCounter
  /-- Wire command 0x03, payload `[mode, priority]` (spec/30 R88, spec/41 R143). -/
  | setModeAndPriority (mode priority : Byte)
  deriving DecidableEq, Repr

end Sys2Proof
end

