-- ==== Sys2Proof/WellFormed.lean ====
section
/-! DEFINITION. When a term of Instr is an instruction the encodings of spec/30 admit. -/

namespace Sys2Proof

/-- The CTRL values that have an operation of their own (spec/30 R90). -/
def assignedCodes : List Byte := [0x00, 0x01, 0x02, 0x03, 0x04, 0x05, 0x06, 0x0F]

/-- ILLEGAL_OP carries one of the 248 unassigned CTRL values (spec/30 R91). Every other instruction is well formed:
it has no operand, or operands that take every byte value (spec/41 R143). -/
def Instr.wf : Instr → Bool
  | .illegalOp code => !assignedCodes.contains code
  | .nop => true
  | .encode => true
  | .decode => true
  | .encStatusQuery => true
  | .encResetWorktime => true
  | .encSetMode => true
  | .statusExtract => true
  | .softReset => true
  | .generalStatusQuery => true
  | .resetWorkTimeCounter => true
  | .setModeAndPriority _ _ => true

end Sys2Proof
end

