-- ==== Sys2Proof/Decode.lean ====
section
/-! DEFINITION. The decoder, total on any bytes, and the encoder, both from the tables of spec/30. One byte is a
CTRL operation code (R90); anything longer is a wire frame (R80, R88). -/

namespace Sys2Proof

open Machine

/-- The operation a CTRL value starts: the table of spec/30 R90, every other value ILLEGAL_OP (R91). -/
def decodeCtrl (v : Byte) : Instr :=
  match v.toNat with
  | 0x00 => .nop
  | 0x01 => .encode
  | 0x02 => .decode
  | 0x03 => .encStatusQuery
  | 0x04 => .encResetWorktime
  | 0x05 => .encSetMode
  | 0x06 => .statusExtract
  | 0x0F => .softReset
  | _ => .illegalOp v

/-- Why a byte sequence is no instruction. -/
inductive DecodeError where
  /-- no byte at all -/
  | empty
  /-- a longer sequence that fails the frame check (spec/40 R117) -/
  | frame (error : FrameError)
  /-- a sound frame whose COMMAND_ID the catalog does not name (spec/30 R89) -/
  | unassignedCommand (command : Byte)
  /-- a sound frame of a catalog command with a payload that is not that command's request (spec/30 R88) -/
  | payloadShape (command : Byte)
  deriving DecidableEq, Repr

/-- What decoding answers: an instruction, or a rejection by name. -/
inductive Decoded where
  | instr (i : Instr)
  | rejected (error : DecodeError)
  deriving DecidableEq, Repr

/-- The wire command of COMMAND_ID `c` with request payload `p` (spec/30 R88). -/
def decodeCommand (c : Byte) (p : List Byte) : Decoded :=
  match c.toNat, p with
  | 0x01, [] => .instr .generalStatusQuery
  | 0x09, [] => .instr .resetWorkTimeCounter
  | 0x03, [mode, priority] => .instr (.setModeAndPriority mode priority)
  | 0x01, _ => .rejected (.payloadShape c)
  | 0x09, _ => .rejected (.payloadShape c)
  | 0x03, _ => .rejected (.payloadShape c)
  | _, _ => .rejected (.unassignedCommand c)

/-- Decoding a wire frame: the frame check, then the command table. -/
def decodeWire (f : List Byte) : Decoded :=
  match decodeFrame f.length f with
  | .accepted c p => decodeCommand c p
  | .rejected e => .rejected (.frame e)

/-- Decoding any bytes (notes/assumptions/9 says how the two layers are told apart: DESIGN CHOICE, safe). -/
def decode (bytes : List Byte) : Decoded :=
  match bytes with
  | [] => .rejected .empty
  | [v] => .instr (decodeCtrl v)
  | _ => decodeWire bytes

/-- The CTRL value that makes the block run the instruction: its own code (spec/30 R90), and for a wire command the
code of the operation that builds its request (spec/41 R140). -/
def Instr.opCode : Instr → Byte
  | .nop => 0x00
  | .encode => 0x01
  | .decode => 0x02
  | .encStatusQuery => 0x03
  | .encResetWorktime => 0x04
  | .encSetMode => 0x05
  | .statusExtract => 0x06
  | .softReset => 0x0F
  | .illegalOp code => code
  | .generalStatusQuery => 0x03
  | .resetWorkTimeCounter => 0x04
  | .setModeAndPriority _ _ => 0x05

/-- The bytes of an instruction: one CTRL byte (spec/30 R90) or the request frame (spec/30 R80, R88). -/
def encode : Instr → List Byte
  | .nop => [Instr.opCode .nop]
  | .encode => [Instr.opCode .encode]
  | .decode => [Instr.opCode .decode]
  | .encStatusQuery => [Instr.opCode .encStatusQuery]
  | .encResetWorktime => [Instr.opCode .encResetWorktime]
  | .encSetMode => [Instr.opCode .encSetMode]
  | .statusExtract => [Instr.opCode .statusExtract]
  | .softReset => [Instr.opCode .softReset]
  | .illegalOp code => [Instr.opCode (.illegalOp code)]
  | .generalStatusQuery => encodeFrame 0x01 []
  | .resetWorkTimeCounter => encodeFrame 0x09 []
  | .setModeAndPriority mode priority => encodeFrame 0x03 [mode, priority]

/-- One CTRL8 row of spec/opcode_table.json: its mask, its match and the instruction of a value it matches. -/
structure CtrlRow where
  mask : Byte
  pattern : Byte
  instr : Byte → Instr

/-- The row's test: `v & mask = match`. -/
def CtrlRow.covers (r : CtrlRow) (v : Byte) : Bool := v &&& r.mask == r.pattern

/-- The sixteen CTRL8 rows of spec/opcode_table.json, in the table's order. -/
def ctrlTable : List CtrlRow :=
  [⟨0xFF, 0x00, fun _ => .nop⟩, ⟨0xFF, 0x01, fun _ => .encode⟩, ⟨0xFF, 0x02, fun _ => .decode⟩,
   ⟨0xFF, 0x03, fun _ => .encStatusQuery⟩, ⟨0xFF, 0x04, fun _ => .encResetWorktime⟩,
   ⟨0xFF, 0x05, fun _ => .encSetMode⟩, ⟨0xFF, 0x06, fun _ => .statusExtract⟩, ⟨0xFF, 0x0F, fun _ => .softReset⟩,
   ⟨0xFF, 0x07, .illegalOp⟩, ⟨0xFC, 0x08, .illegalOp⟩, ⟨0xFE, 0x0C, .illegalOp⟩, ⟨0xFF, 0x0E, .illegalOp⟩,
   ⟨0xF0, 0x10, .illegalOp⟩, ⟨0xE0, 0x20, .illegalOp⟩, ⟨0xC0, 0x40, .illegalOp⟩, ⟨0x80, 0x80, .illegalOp⟩]

/-- The `count` low bytes of `w`, least significant first: bits 7..0 are the first byte, as the table numbers them. -/
def bytesOf : Nat → Nat → List Byte
  | 0, _ => []
  | count + 1, w => BitVec.ofNat 8 w :: bytesOf count (w / 256)

/-- The instruction whose bits, numbered as spec/opcode_table.json numbers them, are `w`. A word of 8 bits is a CTRL
operation; the table's FRAME rows give only their COMMAND_ID byte, which as 8 bits is a CTRL value too, and a wire
command is read from its whole frame (notes/assumptions/9). -/
def decodeTableWord (nbits w : Nat) : Option Instr :=
  match decode (bytesOf (max 1 ((nbits + 7) / 8)) w) with
  | .instr i => some i
  | .rejected _ => none

end Sys2Proof
end

