-- ==== Sys2Proof/Config.lean ====
section
/-! DEFINITION. What the spec leaves open: each value is a constant with no body, so no proof can depend on it. -/

namespace Sys2Proof

/-- Free bytes, one for every draw. They stand for what the spec calls `unspecified`: each byte of RX_PAYLOAD
after a failed DECODE (spec/40 R124, spec/93 U2) and PENDING_OP after a hardware reset (spec/93 U4).
DESIGN CHOICE, safe: notes/assumptions/1 and 3. -/
opaque Config.freeByte : Nat → Byte

/-- CODEC_LATENCY of an operation, by the number of its draw: how many host-visible steps pass between the start
and the completion (spec/00 R8, spec/70 R247, spec/93 U6). DESIGN CHOICE, safe: notes/assumptions/2. -/
opaque Config.codecLatency : Nat → Nat

/-- FC_BASE, the base address of the register window in the host's address space: any value (spec/00 R8,
spec/93 U7). notes/assumptions/12. -/
opaque Config.fcBase : Nat

end Sys2Proof
end

