-- ==== Sys2Proof/Machine/Memory.lean ====
section
/-! DEFINITION. The buffer memory: the four byte buffers of the window as one list of (offset, byte) cells in
canonical form, and its named operations (spec/10 R39 to R42, spec/20 R61). -/

namespace Sys2Proof.Machine

/-- The four byte buffers (spec/10 R20). -/
inductive Buffer where
  | txPayload
  | txFrame
  | rxFrame
  | rxPayload
  deriving DecidableEq, Repr

/-- The window offset of a buffer's first byte (spec/20 R61). -/
def Buffer.base : Buffer → Nat
  | .txPayload => 0x100
  | .txFrame => 0x200
  | .rxFrame => 0x400
  | .rxPayload => 0x600

/-- The number of bytes of a buffer (spec/00 R7). -/
def Buffer.size : Buffer → Nat
  | .txPayload => 253
  | .txFrame => 258
  | .rxFrame => 258
  | .rxPayload => 253

/-- The window offset of byte `k` of a buffer (spec/10 R39 to R42). -/
def Buffer.addr (b : Buffer) (k : Nat) : Nat := b.base + k

/-- The offset lies in the buffer. -/
def Buffer.holds (b : Buffer) (a : Nat) : Bool := decide (b.base ≤ a ∧ a < b.base + b.size)

/-- The offset is a byte of some buffer (spec/20 R61). -/
def inBuffer (a : Nat) : Bool :=
  Buffer.txPayload.holds a || Buffer.txFrame.holds a || Buffer.rxFrame.holds a || Buffer.rxPayload.holds a

/-- The buffer bytes written since reset, by rising window offset. An unlisted byte has no value (spec/70 R231,
spec/93 U1; notes/assumptions/4). -/
abbrev Memory := List Host.Cell

/-- The byte at offset `a`, none if nothing has written it since reset. -/
def Memory.read : Memory → Nat → Option Byte
  | [], _ => none
  | (k, b) :: cells, a => if k = a then some b else Memory.read cells a

/-- Write one byte, keeping the offsets rising. -/
def Memory.write : Memory → Nat → Byte → Memory
  | [], a, v => [(a, v)]
  | (k, b) :: cells, a, v =>
    if a < k then (a, v) :: (k, b) :: cells
    else if k = a then (a, v) :: cells
    else (k, b) :: Memory.write cells a v

/-- The `count` bytes from offset `a`, none if one of them has no value. -/
def Memory.readRange (m : Memory) : Nat → Nat → Option (List Byte)
  | _, 0 => some []
  | a, count + 1 =>
    match m.read a, Memory.readRange m (a + 1) count with
    | some b, some bs => some (b :: bs)
    | _, _ => none

/-- Write consecutive bytes from offset `a`. -/
def Memory.writeRange (m : Memory) : Nat → List Byte → Memory
  | _, [] => m
  | a, b :: bs => Memory.writeRange (m.write a b) (a + 1) bs

/-- Every offset is at least `low`, and the offsets rise strictly. -/
def Memory.risingFrom : Nat → Memory → Bool
  | _, [] => true
  | low, (k, _) :: cells => decide (low ≤ k) && Memory.risingFrom (k + 1) cells

/-- The canonical form: strictly rising offsets, each a byte of a buffer. -/
def Memory.wf (m : Memory) : Bool := Memory.risingFrom 0 m && m.all (fun cell => inBuffer cell.1)

end Sys2Proof.Machine
end

