-- ==== Sys2Proof/Machine/State.lean ====
section
/-! DEFINITION. The state of the block as plain data, its value after reset, and why a step can stop
(spec/10, spec/60 R200, spec/70 R230 and R231). -/

namespace Sys2Proof.Machine

/-- The result codes of STATUS.RESULT, in the order of their numbers 0 to 7 (spec/60 R200). -/
inductive ResultCode where
  | ok
  | malformedHeader
  | lengthMismatch
  | checksumMismatch
  | tooShortPayload
  | payloadTooLong
  | illegalOp
  | noPayload
  deriving DecidableEq, Repr

/-- The 21 status record registers, window offsets 0x020 to 0x034 in this order (spec/10 R38). -/
structure StatusRecord where
  verMajor   : Byte
  verMinor   : Byte
  hour       : Byte
  minute     : Byte
  second     : Byte
  day        : Byte
  month      : Byte
  yearOfs    : Byte
  opMode     : Byte
  opState    : Byte
  statusCode : Byte
  alarms     : Byte
  setTemp    : Byte
  boilerTemp : Byte
  dhwTemp    : Byte
  flame      : Byte
  actuators  : Byte
  fan        : Byte
  power      : Byte
  thermo     : Byte
  workTime   : Byte
  deriving DecidableEq, Repr

/-- The record registers at reset, 0x00 each (spec/10 R38). -/
def StatusRecord.reset : StatusRecord where
  verMajor := 0
  verMinor := 0
  hour := 0
  minute := 0
  second := 0
  day := 0
  month := 0
  yearOfs := 0
  opMode := 0
  opState := 0
  statusCode := 0
  alarms := 0
  setTemp := 0
  boilerTemp := 0
  dhwTemp := 0
  flame := 0
  actuators := 0
  fan := 0
  power := 0
  thermo := 0
  workTime := 0

/-- The register file (spec/10 R22). STATUS is its five fields (R24); TX_FLEN and RX_FLEN are stored once and seen as
two bytes each (R34, R35); CTRL holds no value (R23; notes/assumptions/18). -/
structure Regs where
  busy     : Bool
  done     : Bool
  ack      : Bool
  recValid : Bool
  result   : ResultCode
  txCmd    : Byte
  txPlen   : Byte
  modeArg  : Byte
  prioArg  : Byte
  txFlen   : BitVec 9
  rxFlen   : BitVec 16
  rxCmd    : Byte
  rxPlen   : Byte
  record   : StatusRecord
  deriving DecidableEq, Repr

/-- Every register at the reset value of spec/10 R22 (spec/70 R230). -/
def Regs.reset : Regs where
  busy := false
  done := false
  ack := false
  recValid := false
  result := .ok
  txCmd := 0
  txPlen := 0
  modeArg := 0
  prioArg := 0
  txFlen := 0
  rxFlen := 0
  rxCmd := 0
  rxPlen := 0
  record := StatusRecord.reset

/-- One move of the outside world at the block's ports (spec/20 R63, spec/92 D35; notes/assumptions/5 and 15). -/
inductive HostMove where
  /-- `MemRead(off, 1)` -/
  | read (off : Offset)
  /-- `MemWrite(off, 1, v)` -/
  | write (off : Offset) (v : Byte)
  /-- `MemWrite(off, 1, t)` with `t` the byte the host last read: a line of `loopback` (spec/30 R95) -/
  | writeLast (off : Offset)
  /-- `wait`: read STATUS until BUSY = 0 (spec/30 R95, spec/70 R241) -/
  | poll
  /-- the host makes no access in this step -/
  | idle
  /-- RST is asserted and released (spec/70 R230, R232) -/
  | rst
  deriving DecidableEq, Repr

/-- The whole state: the registers, buffers and latch of spec/10 R20, then the model's own fields. -/
structure State where
  /-- the register file (spec/10 R22) -/
  regs      : Regs
  /-- the four byte buffers (spec/10 R39 to R42) -/
  mem       : Memory
  /-- PENDING_OP (spec/10 R43) -/
  pendingOp : Byte
  /-- model's own: host-visible steps left before the running operation completes (notes/assumptions/2) -/
  latency   : Nat
  /-- model's own: how many free values have been drawn (notes/assumptions/1) -/
  draws     : Nat
  /-- model's own: the moves the outside world is going to make, the next one first (notes/assumptions/5) -/
  host      : List HostMove
  /-- model's own: the byte the last host read returned (notes/assumptions/14) -/
  readData  : Byte
  deriving DecidableEq, Repr

/-- The block after reset: registers as spec/70 R230 says, no buffer byte with a value (R231), idle (R233). The spec
gives PENDING_OP no value: 0x00 here is DESIGN CHOICE, unsafe (notes/assumptions/3). The model's own fields are zero
and empty: DESIGN CHOICE (notes/assumptions/1, 2, 5 and 14). -/
def State.reset : State where
  regs := Regs.reset
  mem := []
  pendingOp := 0
  latency := 0
  draws := 0
  host := []
  readData := 0

/-- Why the machine stops. Each of these is safe: the hardware goes on, the model does not. -/
inductive Fault where
  /-- A host access other than a STATUS read while BUSY = 1, raised by the host's step (spec/70 R240). Safe. -/
  | hazard
  /-- A host read of a buffer byte nothing has written since reset, raised by the host's step (spec/70 R231). Safe. -/
  | unwrittenRead (off : Offset)
  /-- An operation reads as an operand a buffer byte nothing has written since reset, raised by ENCODE, DECODE and
  STATUS_EXTRACT (spec/70 R231, spec/93 U1). Safe. -/
  | unwrittenOperand
  deriving DecidableEq, Repr

/-- Why a step has no meaning. -/
inductive Refusal where
  /-- An instruction the model gives no meaning yet, raised by exec's arm for it; no arm does. Safe. -/
  | notModelled (mnemonic : String)
  deriving DecidableEq, Repr

end Sys2Proof.Machine
end

