-- ==== Sys2Proof/Machine/Flags.lean ====
section
/-! DEFINITION. The STATUS register: its byte view, the result numbers, and how its fields change (spec/10 R24 to
R29). The block has no other flag (R44). -/

namespace Sys2Proof.Machine

/-- The number of a result code (spec/60 R200). -/
def ResultCode.code : ResultCode → BitVec 3
  | .ok => 0
  | .malformedHeader => 1
  | .lengthMismatch => 2
  | .checksumMismatch => 3
  | .tooShortPayload => 4
  | .payloadTooLong => 5
  | .illegalOp => 6
  | .noPayload => 7

/-- STATUS as a byte: 0, RESULT, REC_VALID, ACK, DONE, BUSY from bit 7 down (spec/10 R24). -/
def Regs.statusByte (r : Regs) : Byte :=
  0#1 ++ r.result.code ++ BitVec.ofBool r.recValid ++ BitVec.ofBool r.ack ++ BitVec.ofBool r.done
    ++ BitVec.ofBool r.busy

/-- What a CTRL write does to STATUS: BUSY set, DONE cleared, the rest unchanged (spec/43 R184). -/
def Regs.started (r : Regs) : Regs := { r with busy := true, done := false }

/-- What a completion does to STATUS in every operation: the result code, BUSY cleared, DONE set (spec/43 R185,
spec/10 R25, R26, R29). -/
def Regs.completed (r : Regs) (code : ResultCode) : Regs :=
  { r with busy := false, done := true, result := code }

/-- The STATUS fields a DECODE leaves: ACK set iff it accepted, REC_VALID cleared (spec/10 R27, R28). -/
def Regs.decoded (r : Regs) (accepted : Bool) : Regs := { r with ack := accepted, recValid := false }

end Sys2Proof.Machine
end

