-- ==== Sys2Proof/Machine/Operands.lean ====
section
/-! DEFINITION. The operands of each operation, read at the completion step (spec/30 R93), and the bit fields of the
status record (spec/42). An operand with a byte nothing has written has no value (spec/70 R231). -/

namespace Sys2Proof.Machine

/-- ENCODE's payload operand, TX_PAYLOAD[0..TX_PLEN−1] (spec/10 R31, R39). -/
def State.txPayloadOperand (s : State) : Option (List Byte) :=
  s.mem.readRange Buffer.txPayload.base s.regs.txPlen.toNat

/-- The number of RX_FRAME bytes DECODE reads: none for a buffer shorter than 5 bytes (spec/40 R118), else the first
min(RX_FLEN, 258), 258 being FMAX (spec/10 R41, spec/00 R7). notes/assumptions/7. -/
def Regs.rxHeld (r : Regs) : Nat := if r.rxFlen.toNat < 5 then 0 else min r.rxFlen.toNat 258

/-- DECODE's buffer operand (spec/40 R123). -/
def State.rxFrameOperand (s : State) : Option (List Byte) :=
  s.mem.readRange Buffer.rxFrame.base s.regs.rxHeld

/-- The payload offsets STATUS_EXTRACT reads; it reads no other (spec/42 R174; notes/assumptions/8). -/
def statusOffsets : List Nat := [1, 2, 3, 4, 5, 6, 7, 8, 9, 10, 13, 16, 17, 18, 20, 21, 23, 24, 25, 27]

/-- Every byte STATUS_EXTRACT reads has a value. -/
def State.statusReadable (s : State) : Bool :=
  statusOffsets.all fun k => (s.mem.read (Buffer.rxPayload.addr k)).isSome

/-- RX_PAYLOAD[k], for a byte that has a value. -/
def State.rxPayloadByte (s : State) (k : Nat) : Byte := (s.mem.read (Buffer.rxPayload.addr k)).getD 0

/-- The BCD function, with no check of its digits (spec/42 R163). -/
def bcd (b : Byte) : Byte := (b >>> 4) * 10 + (b &&& 0x0F)

/-- The record of payload `p` (spec/42 R160, R164 to R173). -/
def StatusRecord.ofPayload (p : Nat → Byte) : StatusRecord where
  verMajor := p 1 >>> 4
  verMinor := p 1 &&& 0x0F
  hour := bcd (p 2)
  minute := bcd (p 3)
  second := bcd (p 4)
  day := bcd (p 5)
  month := bcd (p 6)
  yearOfs := bcd (p 7)
  opMode := p 8
  opState := p 9
  statusCode := p 10
  alarms := p 13 &&& 0x21
  setTemp := p 16
  boilerTemp := p 17
  dhwTemp := p 18
  flame := p 20
  actuators := p 21 &&& 0x3E
  fan := p 23
  power := p 24
  thermo := p 25 &&& 0x80
  workTime := p 27

/-- The record registers in window order (spec/10 R38). -/
def StatusRecord.toList (r : StatusRecord) : List Byte :=
  [r.verMajor, r.verMinor, r.hour, r.minute, r.second, r.day, r.month, r.yearOfs, r.opMode, r.opState, r.statusCode,
   r.alarms, r.setTemp, r.boilerTemp, r.dhwTemp, r.flame, r.actuators, r.fan, r.power, r.thermo, r.workTime]

/-- The low and high byte of TX_FLEN; bits 7:1 of the high byte read 0 (spec/10 R34, spec/20 R68). -/
def Regs.txFlenLo (r : Regs) : Byte := r.txFlen.extractLsb' 0 8
def Regs.txFlenHi (r : Regs) : Byte := (r.txFlen.extractLsb' 8 1).setWidth 8

/-- The low and high byte of RX_FLEN, and what a write of one of them does (spec/10 R35, spec/20 R68). -/
def Regs.rxFlenLo (r : Regs) : Byte := r.rxFlen.extractLsb' 0 8
def Regs.rxFlenHi (r : Regs) : Byte := r.rxFlen.extractLsb' 8 8
def Regs.writeRxFlenLo (r : Regs) (v : Byte) : Regs := { r with rxFlen := r.rxFlenHi ++ v }
def Regs.writeRxFlenHi (r : Regs) (v : Byte) : Regs := { r with rxFlen := v ++ r.rxFlenLo }

end Sys2Proof.Machine
end

