-- ==== Sys2Proof/Machine/Ops.lean ====
section
/-! DEFINITION. The named operations on the whole state that the meanings share: the start and the completion of an
operation, the outputs of ENCODE and DECODE, resets, free draws (spec/43, spec/40, spec/70). -/

namespace Sys2Proof.Machine

/-- What a step answers. -/
abbrev StepResult := Host.Outcome State Fault Refusal

/-- The result code of an integrity failure (spec/60 R200). -/
def FrameError.result : FrameError → ResultCode
  | .malformedHeader => .malformedHeader
  | .lengthMismatch => .lengthMismatch
  | .checksumMismatch => .checksumMismatch

/-- `n` free bytes, the first of draw `d` (notes/assumptions/1). -/
def freeBytes : Nat → Nat → List Byte
  | _, 0 => []
  | d, n + 1 => Config.freeByte d :: freeBytes (d + 1) n

/-- The start step of an operation (spec/43 R184); its latency is a free value (notes/assumptions/2). -/
def State.start (s : State) (op : Byte) : State :=
  { s with pendingOp := op, regs := s.regs.started, latency := Config.codecLatency s.draws, draws := s.draws + 1 }

/-- The end of every completion step, successful or failing: the block's one way to report an error
(spec/43 R185, spec/60 R205). -/
def State.complete (s : State) (code : ResultCode) : State := { s with regs := s.regs.completed code }

/-- One host-visible step passes while an operation runs (notes/assumptions/2). -/
def State.tick (s : State) : State := if s.regs.busy then { s with latency := s.latency - 1 } else s

/-- The inputs of ENCODE as a catalog operation sets them (spec/41 R141 to R143). -/
def State.setRequest (s : State) (cmd plen : Byte) : State :=
  { s with regs := { s.regs with txCmd := cmd, txPlen := plen } }

/-- The payload of SetModeAndPriority placed in TX_PAYLOAD[0..1] (spec/41 R143). -/
def State.setModePayload (s : State) (mode priority : Byte) : State :=
  { s with mem := s.mem.writeRange Buffer.txPayload.base [mode, priority] }

/-- ENCODE's outputs for a payload that fits (spec/40 R115). -/
def State.storeRequest (s : State) (frame : List Byte) : State :=
  { s with
    mem := s.mem.writeRange Buffer.txFrame.base frame
    regs := { s.regs with txFlen := BitVec.ofNat 9 frame.length, ack := false } }.complete .ok

/-- ENCODE's outputs for a payload that is too long (spec/40 R116). -/
def State.refuseRequest (s : State) : State :=
  { s with regs := { s.regs with txFlen := 0, ack := false } }.complete .payloadTooLong

/-- ENCODE as every ENCODE-family operation performs it; 253 is PMAX (spec/40 R115, spec/00 R7). -/
def State.performEncode (s : State) : StepResult :=
  if 253 < s.regs.txPlen.toNat then .next s.refuseRequest
  else
    match s.txPayloadOperand with
    | some payload => .next (s.storeRequest (encodeFrame s.regs.txCmd payload))
    | none => .fault .unwrittenOperand

/-- DECODE's outputs for a sound frame (spec/40 R123). -/
def State.acceptResponse (s : State) (command : Byte) (payload : List Byte) : State :=
  { s with
    mem := s.mem.writeRange Buffer.rxPayload.base payload
    regs := { s.regs.decoded true with
      rxCmd := command, rxPlen := BitVec.ofNat 8 payload.length } }.complete .ok

/-- DECODE's outputs for a frame that fails a check: RX_PAYLOAD becomes free bytes (spec/40 R124, spec/93 U2;
notes/assumptions/1). -/
def State.rejectResponse (s : State) (error : FrameError) : State :=
  { s with
    mem := s.mem.writeRange Buffer.rxPayload.base (freeBytes s.draws Buffer.rxPayload.size)
    draws := s.draws + Buffer.rxPayload.size
    regs := { s.regs.decoded false with rxCmd := 0, rxPlen := 0 } }.complete error.result

/-- STATUS_EXTRACT's outputs for a payload it extracts (spec/42 R160). -/
def State.storeRecord (s : State) : State :=
  { s with regs := { s.regs with
      record := StatusRecord.ofPayload s.rxPayloadByte, recValid := true } }.complete .ok

/-- STATUS_EXTRACT's outputs for a payload it does not extract (spec/42 R161, R162). -/
def State.refuseRecord (s : State) (code : ResultCode) : State :=
  { s with regs := { s.regs with recValid := false } }.complete code

/-- SOFT_RESET's outputs: every register of spec/10 R22 at its reset value, the buffers unchanged (spec/43 R181). -/
def State.softReset (s : State) : State := { s with regs := Regs.reset }.complete .ok

/-- The RST event: registers at their reset values, every buffer byte without a value, PENDING_OP free, a running
operation aborted (spec/70 R230 to R232, spec/93 U3 and U4; notes/assumptions/3 and 11). The model's queue of moves
and its read-data byte stay. -/
def State.hardReset (s : State) : State :=
  { State.reset with
    pendingOp := Config.freeByte s.draws, draws := s.draws + 1, host := s.host, readData := s.readData }

end Sys2Proof.Machine
end

