-- ==== Sys2Proof/Machine/Bus.lean ====
section
/-! DEFINITION. The register window as the host sees it: its map, reads and writes, the host's step, and how an
instruction is placed for the codec's next step (spec/20, spec/43 R184, spec/70 R240). -/

namespace Sys2Proof.Machine

/-- The twelve register bytes at 0x000 to 0x00B (spec/10 R22). -/
inductive Reg where
  | ctrl
  | status
  | txCmd
  | txPlen
  | modeArg
  | prioArg
  | txFlenLo
  | txFlenHi
  | rxFlenLo
  | rxFlenHi
  | rxCmd
  | rxPlen
  deriving DecidableEq, Repr

/-- What stands at a window offset (spec/20 R61). -/
inductive Loc where
  | reg (r : Reg)
  | record (k : Nat)
  | buffer (b : Buffer) (k : Nat)
  | reserved
  deriving DecidableEq, Repr

/-- The register bytes in offset order (spec/10 R22). -/
def regMap : List Reg :=
  [.ctrl, .status, .txCmd, .txPlen, .modeArg, .prioArg, .txFlenLo, .txFlenHi, .rxFlenLo, .rxFlenHi, .rxCmd, .rxPlen]

/-- The window map; every offset it does not list is reserved (spec/20 R61, R62). -/
def locate (off : Offset) : Loc :=
  let a := off.toNat
  if a < 0x00C then .reg (regMap.getD a .ctrl)
  else if a < 0x020 then .reserved
  else if a < 0x035 then .record (a - 0x020)
  else if a < 0x100 then .reserved
  else if a < 0x1FD then .buffer .txPayload (a - 0x100)
  else if a < 0x200 then .reserved
  else if a < 0x302 then .buffer .txFrame (a - 0x200)
  else if a < 0x400 then .reserved
  else if a < 0x502 then .buffer .rxFrame (a - 0x400)
  else if a < 0x600 then .reserved
  else if a < 0x6FD then .buffer .rxPayload (a - 0x600)
  else .reserved

/-- The offset of CTRL (spec/10 R23). -/
abbrev ctrlOffset : Offset := 0x000

/-- The offset of STATUS (spec/10 R24). -/
abbrev statusOffset : Offset := 0x001

/-- A host read of a register byte; CTRL reads 0x00 (spec/10 R22, spec/20 R66). -/
def Regs.readReg (r : Regs) : Reg → Byte
  | .ctrl => 0
  | .status => r.statusByte
  | .txCmd => r.txCmd
  | .txPlen => r.txPlen
  | .modeArg => r.modeArg
  | .prioArg => r.prioArg
  | .txFlenLo => r.txFlenLo
  | .txFlenHi => r.txFlenHi
  | .rxFlenLo => r.rxFlenLo
  | .rxFlenHi => r.rxFlenHi
  | .rxCmd => r.rxCmd
  | .rxPlen => r.rxPlen

/-- What a host read of an offset returns, none for a buffer byte without a value (spec/20 R61, R62, spec/70 R231).
A read changes nothing (spec/20 R65). -/
def State.windowRead (s : State) (off : Offset) : Option Byte :=
  match locate off with
  | .reg r => some (s.regs.readReg r)
  | .record k => some (s.regs.record.toList.getD k 0)
  | .buffer b k => s.mem.read (b.addr k)
  | .reserved => some 0

/-- The registers after a host write of a register byte other than CTRL; read-only bytes ignore it (spec/10 R22,
spec/20 R66). -/
def Regs.writeReg (r : Regs) (reg : Reg) (v : Byte) : Regs :=
  match reg with
  | .txCmd => { r with txCmd := v }
  | .txPlen => { r with txPlen := v }
  | .modeArg => { r with modeArg := v }
  | .prioArg => { r with prioArg := v }
  | .rxFlenLo => r.writeRxFlenLo v
  | .rxFlenHi => r.writeRxFlenHi v
  | .ctrl => r
  | .status => r
  | .txFlenLo => r
  | .txFlenHi => r
  | .rxCmd => r
  | .rxPlen => r

/-- What a host write of an offset does while BUSY = 0: CTRL starts an operation, a writable byte takes the value,
everything else ignores it (spec/10 R23, spec/20 R61, R62, R66, spec/43 R184). -/
def State.windowWrite (s : State) (off : Offset) (v : Byte) : State :=
  match locate off with
  | .reg .ctrl => s.start v
  | .reg r => { s with regs := s.regs.writeReg r v }
  | .buffer .txPayload k => { s with mem := s.mem.write (Buffer.txPayload.addr k) v }
  | .buffer .rxFrame k => { s with mem := s.mem.write (Buffer.rxFrame.addr k) v }
  | .buffer .txFrame _ => s
  | .buffer .rxPayload _ => s
  | .record _ => s
  | .reserved => s

/-- The move `MemRead(off, 1)`: while BUSY = 1 only STATUS may be read (spec/70 R240). -/
def State.readMove (s : State) (off : Offset) : StepResult :=
  if s.regs.busy && off != statusOffset then .fault .hazard
  else
    match s.windowRead off with
    | some v => .next { s with readData := v }.tick
    | none => .fault (.unwrittenRead off)

/-- The move `MemWrite(off, 1, v)`: a hazard while BUSY = 1 (spec/70 R240). -/
def State.writeMove (s : State) (off : Offset) (v : Byte) : StepResult :=
  if s.regs.busy then .fault .hazard else .next (s.windowWrite off v)

/-- One step of the outside world: its first move (notes/assumptions/5 and 15). A `poll` is a STATUS read that stays
the next move while it reads BUSY = 1 (spec/30 R95). With no move the host is idle. -/
def State.hostTurn (s : State) : StepResult :=
  match s.host with
  | [] => .next s.tick
  | .idle :: rest => .next { s with host := rest }.tick
  | .rst :: rest => .next { s with host := rest }.hardReset
  | .read off :: rest => { s with host := rest }.readMove off
  | .write off v :: rest => { s with host := rest }.writeMove off v
  | .writeLast off :: rest => { s with host := rest }.writeMove off s.readData
  | .poll :: rest => (if s.regs.busy then s else { s with host := rest }).readMove statusOffset

/-- It is the codec's turn: an operation runs and its latency has passed (spec/43 R185; notes/assumptions/2). -/
def State.codecTurn (s : State) : Bool := s.regs.busy && s.latency == 0

/-- The instruction the codec's step runs: the operation of PENDING_OP (spec/43 R185). -/
def State.fetch (s : State) : Instr := decodeCtrl s.pendingOp

/-- The arguments of a command where its building operation reads them (spec/41 R143). -/
def Regs.withArgs (r : Regs) : Instr → Regs
  | .setModeAndPriority mode priority => { r with modeArg := mode, prioArg := priority }
  | .nop => r
  | .encode => r
  | .decode => r
  | .encStatusQuery => r
  | .encResetWorktime => r
  | .encSetMode => r
  | .statusExtract => r
  | .softReset => r
  | .illegalOp _ => r
  | .generalStatusQuery => r
  | .resetWorkTimeCounter => r

/-- The state in which the codec's next step runs `i`: its operation started as spec/43 R184 says, with no latency left,
and a command's arguments in their registers (notes/assumptions/10). -/
def State.issue (i : Instr) (s : State) : State :=
  { s with pendingOp := i.opCode, latency := 0, regs := (s.regs.withArgs i).started }

/-- The address of an offset in the host's address space (spec/00 R8). -/
def busAddress (off : Offset) : Nat := Config.fcBase + off.toNat

/-- The window offset of an address of the host's address space, none outside the window, which belongs to the
platform (spec/20 R61; notes/assumptions/12). -/
def offsetOf (addr : Nat) : Option Offset :=
  if Config.fcBase ≤ addr ∧ addr < Config.fcBase + 0x800 then some (BitVec.ofNat 11 (addr - Config.fcBase)) else none

end Sys2Proof.Machine
end

