-- ==== Sys2Proof/Machine/Catalog.lean ====
section
/-! DEFINITION. The meanings of the catalog operations and of the wire commands they build (spec/41). -/

namespace Sys2Proof.Machine

/-- The identifiers of the three commands (spec/30 R88, spec/10 R45). -/
abbrev cmdGeneralStatus : Byte := 0x01
abbrev cmdResetWorkTime : Byte := 0x09
abbrev cmdSetMode : Byte := 0x03

/-- Building the GeneralStatusQuery request (spec/41 R141). -/
def State.buildStatusQuery (s : State) : StepResult := (s.setRequest cmdGeneralStatus 0).performEncode

/-- Building the ResetWorkTimeCounter request (spec/41 R142). -/
def State.buildResetWorkTime (s : State) : StepResult := (s.setRequest cmdResetWorkTime 0).performEncode

/-- Building the SetModeAndPriority request of two arguments (spec/41 R143). -/
def State.buildSetMode (s : State) (mode priority : Byte) : StepResult :=
  ((s.setRequest cmdSetMode 2).setModePayload mode priority).performEncode

/-- ENC_STATUS_QUERY (spec/41 R141). -/
def execEncStatusQuery (s : State) : StepResult := s.buildStatusQuery

/-- ENC_RESET_WORKTIME (spec/41 R142). -/
def execEncResetWorktime (s : State) : StepResult := s.buildResetWorkTime

/-- ENC_SET_MODE: the arguments are MODE_ARG and PRIO_ARG (spec/41 R143). -/
def execEncSetMode (s : State) : StepResult := s.buildSetMode s.regs.modeArg s.regs.prioArg

/-- The wire command GeneralStatusQuery: the builder creates and encodes it (spec/41 R140, R141;
notes/assumptions/9). -/
def execGeneralStatusQuery (s : State) : StepResult := s.buildStatusQuery

/-- The wire command ResetWorkTimeCounter (spec/41 R140, R142; notes/assumptions/9). -/
def execResetWorkTimeCounter (s : State) : StepResult := s.buildResetWorkTime

/-- The wire command SetModeAndPriority, with the arguments its payload carries (spec/30 R88, spec/41 R140, R143;
notes/assumptions/9). -/
def execSetModeAndPriority (mode priority : Byte) (s : State) : StepResult := s.buildSetMode mode priority

end Sys2Proof.Machine
end

