-- ==== Sys2Proof/Machine/CodecOps.lean ====
section
/-! DEFINITION. The meanings of ENCODE and DECODE (spec/40). -/

namespace Sys2Proof.Machine

/-- ENCODE (spec/40 R115, R116). -/
def execEncode (s : State) : StepResult := s.performEncode

/-- DECODE (spec/40 R123 to R126). -/
def execDecode (s : State) : StepResult :=
  match s.rxFrameOperand with
  | none => .fault .unwrittenOperand
  | some held =>
    match decodeFrame s.regs.rxFlen.toNat held with
    | .accepted command payload => .next (s.acceptResponse command payload)
    | .rejected error => .next (s.rejectResponse error)

end Sys2Proof.Machine
end

