-- ==== Sys2Proof/Machine/Control.lean ====
section
/-! DEFINITION. The meanings of the control operations NOP, SOFT_RESET and ILLEGAL_OP (spec/43 section 2). -/

namespace Sys2Proof.Machine

/-- NOP (spec/43 R180). -/
def execNop (s : State) : StepResult := .next (s.complete .ok)

/-- SOFT_RESET (spec/43 R181). -/
def execSoftReset (s : State) : StepResult := .next s.softReset

/-- ILLEGAL_OP of any unassigned CTRL value (spec/43 R182). -/
def execIllegalOp (_code : Byte) (s : State) : StepResult := .next (s.complete .illegalOp)

end Sys2Proof.Machine
end

