-- ==== Sys2Proof/Machine/StatusExtract.lean ====
section
/-! DEFINITION. The meaning of STATUS_EXTRACT (spec/42). -/

namespace Sys2Proof.Machine

/-- STATUS_EXTRACT: NO_PAYLOAD before TOO_SHORT_PAYLOAD before extraction of a payload of at least 28 bytes (spec/42 R160 to R162, spec/60 R204). -/
def execStatusExtract (s : State) : StepResult :=
  if s.regs.ack = false then .next (s.refuseRecord .noPayload)
  else if s.regs.rxPlen.toNat < 28 then .next (s.refuseRecord .tooShortPayload)
  else if s.statusReadable then .next s.storeRecord
  else .fault .unwrittenOperand

end Sys2Proof.Machine
end

