-- ==== Sys2Proof/Machine/Dispatch.lean ====
section
/-! DEFINITION. One arm per constructor of Instr: the meaning of each instruction. -/

namespace Sys2Proof.Machine

def exec (i : Instr) (s : State) : Host.Outcome State Fault Refusal :=
  match i with
  | .nop => Sys2Proof.Machine.execNop s
  | .encode => Sys2Proof.Machine.execEncode s
  | .decode => Sys2Proof.Machine.execDecode s
  | .encStatusQuery => Sys2Proof.Machine.execEncStatusQuery s
  | .encResetWorktime => Sys2Proof.Machine.execEncResetWorktime s
  | .encSetMode => Sys2Proof.Machine.execEncSetMode s
  | .statusExtract => Sys2Proof.Machine.execStatusExtract s
  | .softReset => Sys2Proof.Machine.execSoftReset s
  | .illegalOp code => Sys2Proof.Machine.execIllegalOp code s
  | .generalStatusQuery => Sys2Proof.Machine.execGeneralStatusQuery s
  | .resetWorkTimeCounter => Sys2Proof.Machine.execResetWorkTimeCounter s
  | .setModeAndPriority mode priority => Sys2Proof.Machine.execSetModeAndPriority mode priority s

end Sys2Proof.Machine
end

