-- ==== Sys2Proof/Machine/Step.lean ====
section
/-! DEFINITION. One step of the block: the codec's completion when its turn has come, else the outside world's next
move (spec/43 R185, spec/20 R70; notes/assumptions/2 and 5). -/

namespace Sys2Proof.Machine

/-- One step. The codec's step is the whole completion of the operation in PENDING_OP, with nothing around it. -/
def step (s : State) : Host.Outcome State Fault Refusal :=
  if s.codecTurn then exec s.fetch s else s.hostTurn

/-- The state whose next step runs the instruction of bits `w`; a word that is no instruction places nothing
(notes/assumptions/10). -/
def State.withFetchWord (s : State) (nbits w : Nat) : State :=
  match decodeTableWord nbits w with
  | some i => State.issue i s
  | none => s

end Sys2Proof.Machine
end

