-- ==== Sys2Proof/Machine/HostNotation.lean ====
section
/-! DEFINITION. The host notation and its pseudo-operations as lists of host moves (spec/30 R94, R95). A host variable
is not block state; the one a line writes back right after reading it is the read-data byte (notes/assumptions/15). -/

namespace Sys2Proof.Machine

/-- The offset of byte `k` of a buffer. -/
def Buffer.offset (b : Buffer) (k : Nat) : Offset := BitVec.ofNat 11 (b.addr k)

/-- `op NAME`: the CTRL write of the operation (spec/30 R94). -/
def hostOp (i : Instr) : List HostMove := [.write ctrlOffset i.opCode]

/-- `wait` (spec/30 R95). -/
def hostWait : List HostMove := [.poll]

/-- `exec NAME` is `op NAME ; wait` (spec/30 R95). -/
def hostExec (i : Instr) : List HostMove := hostOp i ++ hostWait

/-- `chk`: its STATUS read; RESULT is bits 6:4 of the byte read (spec/30 R95). -/
def hostChk : List HostMove := [.read statusOffset]

/-- `setrx N` (spec/30 R95). -/
def hostSetRx (n : Nat) : List HostMove :=
  [.write 0x008 (BitVec.ofNat 8 n), .write 0x009 (BitVec.ofNat 8 (n / 256))]

/-- Copy `count` bytes of TX_FRAME to RX_FRAME from index `j`, each read and then written. -/
def hostCopy : Nat → Nat → List HostMove
  | _, 0 => []
  | j, count + 1 =>
    .read (Buffer.txFrame.offset j) :: .writeLast (Buffer.rxFrame.offset j) :: hostCopy (j + 1) count

/-- `loopback` for a request of `n` bytes, the value its first two reads return (spec/30 R95). -/
def hostLoopback (n : Nat) : List HostMove :=
  [.read 0x006, .read 0x007] ++ hostCopy 0 n ++ hostSetRx n

/-- Writing the bytes `bs` into a buffer from index `k`. -/
def hostFill (b : Buffer) : Nat → List Byte → List HostMove
  | _, [] => []
  | k, v :: vs => .write (b.offset k) v :: hostFill b (k + 1) vs

end Sys2Proof.Machine
end

