-- ==== Sys2Proof/Safety.lean ====
section
/-! DEFINITION. The terms claims are stated in: what a buffer holds, what a step leaves alone, when an operation has its
operands, and the invariant of the block. -/

namespace Sys2Proof.Machine

/-- `k` steps, stopping at the first fault or refusal: the host's run of the machine, in the model's own types. -/
def State.run : Nat → State → StepResult
  | 0, s => .next s
  | k + 1, s =>
    match step s with
    | .next t => State.run k t
    | .fault f => .fault f
    | .refused r => .refused r

/-- Bytes 0 to n−1 of a buffer have a value. -/
abbrev State.written (s : State) (b : Buffer) (n : Nat) : Prop := ∀ k < n, (s.mem.read (b.addr k)).isSome = true

/-- The buffer's first bytes are `bs`. -/
abbrev State.holds (s : State) (b : Buffer) (bs : List Byte) : Prop :=
  ∀ k < bs.length, s.mem.read (b.addr k) = bs[k]?

/-- Every buffer byte of the window reads in `t` as in `s`, but for the first `n` bytes of buffer `b`. -/
abbrev State.sameOutside (s t : State) (b : Buffer) (n : Nat) : Prop :=
  ∀ a, ¬(b.base ≤ a ∧ a < b.base + n) → t.mem.read a = s.mem.read a

/-- Everything but the registers, the buffers and the draw counter is the same. -/
abbrev State.sameLatch (s t : State) : Prop :=
  t.pendingOp = s.pendingOp ∧ t.latency = s.latency ∧ t.host = s.host ∧ t.readData = s.readData

/-- Everything but the registers and the buffers is the same. -/
abbrev State.sameRest (s t : State) : Prop := s.sameLatch t ∧ t.draws = s.draws

/-- The operands the instruction reads have values (spec/70 R234, R231; spec/30 R93). -/
abbrev State.Ready (s : State) : Instr → Prop
  | .nop => True
  | .encode => s.regs.txPlen.toNat ≤ 253 → s.written .txPayload s.regs.txPlen.toNat
  | .decode => s.written .rxFrame s.regs.rxHeld
  | .encStatusQuery => True
  | .encResetWorktime => True
  | .encSetMode => True
  | .statusExtract =>
    s.regs.ack = true → 28 ≤ s.regs.rxPlen.toNat →
      ∀ k ∈ statusOffsets, (s.mem.read (Buffer.rxPayload.addr k)).isSome = true
  | .softReset => True
  | .illegalOp _ => True
  | .generalStatusQuery => True
  | .resetWorkTimeCounter => True
  | .setModeAndPriority _ _ => True

/-- The operations that build a request (spec/10 R27, R34). -/
def buildsRequest : Instr → Bool
  | .encode => true
  | .encStatusQuery => true
  | .encResetWorktime => true
  | .encSetMode => true
  | .generalStatusQuery => true
  | .resetWorkTimeCounter => true
  | .setModeAndPriority _ _ => true
  | .nop => false
  | .decode => false
  | .statusExtract => false
  | .softReset => false
  | .illegalOp _ => false

/-- The operations that write TX_PAYLOAD (spec/10 R39). -/
def setsModePayload : Instr → Bool
  | .encSetMode => true
  | .setModeAndPriority _ _ => true
  | .nop => false
  | .encode => false
  | .decode => false
  | .encStatusQuery => false
  | .encResetWorktime => false
  | .statusExtract => false
  | .softReset => false
  | .illegalOp _ => false
  | .generalStatusQuery => false
  | .resetWorkTimeCounter => false

/-- COMMAND_ID and payload of a wire command's request (spec/30 R88). -/
def wireRequest : Instr → Option (Byte × List Byte)
  | .generalStatusQuery => some (0x01, [])
  | .resetWorkTimeCounter => some (0x09, [])
  | .setModeAndPriority mode priority => some (0x03, [mode, priority])
  | .nop => none
  | .encode => none
  | .decode => none
  | .encStatusQuery => none
  | .encResetWorktime => none
  | .encSetMode => none
  | .statusExtract => none
  | .softReset => none
  | .illegalOp _ => none

/-- The reserved offsets of the window map (spec/20 R61). -/
abbrev reservedOffset (off : Offset) : Prop :=
  (0x00C ≤ off.toNat ∧ off.toNat ≤ 0x01F) ∨ (0x035 ≤ off.toNat ∧ off.toNat ≤ 0x0FF) ∨
  (0x1FD ≤ off.toNat ∧ off.toNat ≤ 0x1FF) ∨ (0x302 ≤ off.toNat ∧ off.toNat ≤ 0x3FF) ∨
  (0x502 ≤ off.toNat ∧ off.toNat ≤ 0x5FF) ∨ (0x6FD ≤ off.toNat ∧ off.toNat ≤ 0x7FF)

/-- The offsets a host write is ignored at: STATUS, TX_FLEN, RX_CMD, RX_PLEN, the record, TX_FRAME and RX_PAYLOAD
(spec/20 R66). -/
abbrev readOnlyOffset (off : Offset) : Prop :=
  off.toNat = 0x001 ∨ off.toNat = 0x006 ∨ off.toNat = 0x007 ∨ off.toNat = 0x00A ∨ off.toNat = 0x00B ∨
  (0x020 ≤ off.toNat ∧ off.toNat ≤ 0x034) ∨ (0x200 ≤ off.toNat ∧ off.toNat ≤ 0x301) ∨
  (0x600 ≤ off.toNat ∧ off.toNat ≤ 0x6FC)

/-- The offsets the host reads and writes (spec/10 R22, spec/20 R61). -/
abbrev readWriteOffset (off : Offset) : Prop :=
  (0x002 ≤ off.toNat ∧ off.toNat ≤ 0x005) ∨ off.toNat = 0x008 ∨ off.toNat = 0x009 ∨
  (0x100 ≤ off.toNat ∧ off.toNat ≤ 0x1FC) ∨ (0x400 ≤ off.toNat ∧ off.toNat ≤ 0x501)

/-- The offsets of the registers of spec/10 R22. -/
abbrev registerOffset (off : Offset) : Prop :=
  off.toNat ≤ 0x00B ∨ (0x020 ≤ off.toNat ∧ off.toNat ≤ 0x034)

/-- The next move is a write of CTRL. -/
abbrev State.writesCtrl (s : State) : Prop :=
  (∃ v rest, s.host = .write ctrlOffset v :: rest) ∨ (∃ rest, s.host = .writeLast ctrlOffset :: rest)

/-- The next move is RST. -/
abbrev State.resets (s : State) : Prop := ∃ rest, s.host = .rst :: rest

/-- The values the record formulas can leave in the registers (spec/42 R163 to R172). -/
abbrev StatusRecord.Legal (r : StatusRecord) : Prop :=
  r.verMajor.toNat ≤ 15 ∧ r.verMinor.toNat ≤ 15 ∧
  r.hour.toNat ≤ 165 ∧ r.minute.toNat ≤ 165 ∧ r.second.toNat ≤ 165 ∧
  r.day.toNat ≤ 165 ∧ r.month.toNat ≤ 165 ∧ r.yearOfs.toNat ≤ 165 ∧
  r.alarms &&& 0xDE = 0 ∧ r.actuators &&& 0xC1 = 0 ∧ r.thermo &&& 0x7F = 0

/-- What a result code says of the flags and lengths beside it, until the next completion (spec/60 R200, R201;
spec/10 R27, R28; spec/90 C5). -/
def Regs.Coherent (r : Regs) : Prop :=
  match r.result with
  | .ok => True
  | .malformedHeader => r.ack = false ∧ r.recValid = false ∧ r.rxCmd = 0 ∧ r.rxPlen = 0
  | .lengthMismatch => r.ack = false ∧ r.recValid = false ∧ r.rxCmd = 0 ∧ r.rxPlen = 0
  | .checksumMismatch => r.ack = false ∧ r.recValid = false ∧ r.rxCmd = 0 ∧ r.rxPlen = 0
  | .tooShortPayload => r.ack = true ∧ r.recValid = false ∧ r.rxPlen.toNat < 28
  | .payloadTooLong => r.ack = false ∧ r.txFlen = 0
  | .illegalOp => True
  | .noPayload => r.ack = false ∧ r.recValid = false

/-- The invariant of the block: it holds at reset and every step keeps it. -/
structure State.Inv (s : State) : Prop where
  /-- the buffer memory is in canonical form -/
  canonical : s.mem.wf = true
  /-- BUSY and DONE never hold at once (spec/10 R24) -/
  notBusyDone : ¬(s.regs.busy = true ∧ s.regs.done = true)
  /-- TX_FLEN is 0 or the length of a frame (spec/10 R34) -/
  txFlenLegal : s.regs.txFlen.toNat = 0 ∨ (5 ≤ s.regs.txFlen.toNat ∧ s.regs.txFlen.toNat ≤ 258)
  /-- the frame TX_FLEN counts is there (spec/10 R40) -/
  frameWritten : s.written .txFrame s.regs.txFlen.toNat
  /-- RX_PLEN is a payload length (spec/10 R37) -/
  rxPlenLegal : s.regs.rxPlen.toNat ≤ 253
  /-- an acknowledged payload is there (spec/10 R42) -/
  payloadWritten : s.regs.ack = true → s.written .rxPayload s.regs.rxPlen.toNat
  /-- the record registers hold values the formulas can give -/
  recordLegal : s.regs.record.Legal
  /-- STATUS says nothing that contradicts its result code -/
  coherent : s.regs.Coherent

end Sys2Proof.Machine
end

