-- ==== Sys2Proof/Certificates/Slice0/Obligations.lean ====
section
/-! DEFINITION. The statements for the provers. Each docstring names the rules of spec/ it formalises. -/

open Sys2Proof Sys2Proof.Machine

/-! ### Encodings -/

/-- Decoding the bytes of a well-formed instruction gives it back, with every operand at every value
(spec/30 R80, R88, R90, R91). -/
def Obligations.DecodeOfEncodeIsTheInstruction : Prop :=
  ∀ i : Instr, i.wf = true → decode (encode i) = .instr i

/-- The CTRL table of spec/30 R90, row by row, every other value ILLEGAL_OP, and the whole byte is the code. -/
def Obligations.CtrlCodesAreTheTable : Prop :=
  decodeCtrl 0x00 = .nop ∧ decodeCtrl 0x01 = .encode ∧ decodeCtrl 0x02 = .decode ∧
  decodeCtrl 0x03 = .encStatusQuery ∧ decodeCtrl 0x04 = .encResetWorktime ∧ decodeCtrl 0x05 = .encSetMode ∧
  decodeCtrl 0x06 = .statusExtract ∧ decodeCtrl 0x0F = .softReset ∧
  (∀ v : Byte, (0x07 ≤ v.toNat ∧ v.toNat ≤ 0x0E) ∨ 0x10 ≤ v.toNat → decodeCtrl v = .illegalOp v) ∧
  (∀ v : Byte, (decodeCtrl v).wf = true ∧ encode (decodeCtrl v) = [v])

/-- Words written out from the spec's encodings decode to what they stand for (spec/30 R88, R90; spec/95 CV1, CV2,
CV4), and sequences that are no request are rejected by name (spec/95 DV8, DV10, DV19). -/
def Obligations.SpecWordsDecode : Prop :=
  decode [0x01] = .instr .encode ∧ decode [0x06] = .instr .statusExtract ∧ decode [0x80] = .instr (.illegalOp 0x80) ∧
  decode [0x5A, 0x5A, 0x02, 0x01, 0xFD] = .instr .generalStatusQuery ∧
  decode [0x5A, 0x5A, 0x02, 0x09, 0xF5] = .instr .resetWorkTimeCounter ∧
  decode [0x5A, 0x5A, 0x04, 0x03, 0x02, 0x04, 0xF8] = .instr (.setModeAndPriority 1 2) ∧
  decode [0x5A, 0x5A, 0x02, 0x01] = .rejected (.frame .malformedHeader) ∧
  decode [0x5A, 0x5A, 0x03, 0x01, 0xFD] = .rejected (.frame .lengthMismatch) ∧
  decode [0x5A, 0x5A, 0x02, 0x01, 0xFC] = .rejected (.frame .checksumMismatch)

/-! ### The pure functions of the codec -/

/-- The rolling transform adds the index less one and its inverse subtracts it, modulo 256; each undoes the other, and
on a sequence each byte depends on its own index alone (spec/40 R110, R111). -/
def Obligations.RollingTransformIsAPositionalBijection : Prop :=
  (∀ (b : Byte) (i : Nat), 1 ≤ i → i ≤ 255 →
    (transform b i).toNat = (b.toNat + (i - 1)) % 256 ∧
    (untransform b i).toNat = (b.toNat + 256 - (i - 1)) % 256 ∧
    untransform (transform b i) i = b ∧ transform (untransform b i) i = b) ∧
  (∀ (i : Nat) (bs : List Byte) (k : Nat), (transformFrom i bs)[k]? = bs[k]?.map fun b => transform b (i + k))

/-- The checksum is the one's complement of the 8-bit sum: 255 less the exact sum modulo 256 (spec/40 R112). -/
def Obligations.ChecksumIsTheComplementOfTheSum : Prop :=
  ∀ region : List Byte, (checksum region).toNat = 255 - (region.map BitVec.toNat).sum % 256

/-- A body before transformation sums to 0xFF with its checksum (spec/40 R113). -/
def Obligations.BodyWithChecksumSumsToFF : Prop :=
  ∀ (c : Byte) (p : List Byte),
    sum8 ([lengthByte p, c] ++ p ++ [checksum ([lengthByte p, c] ++ p)]) = 0xFF

/-- The frame of a COMMAND_ID and a payload, byte by byte (spec/30 R80). -/
def Obligations.EncodedFrameLayout : Prop :=
  ∀ (c : Byte) (p : List Byte), p.length ≤ 253 →
    (encodeFrame c p).length = p.length + 5 ∧
    (encodeFrame c p)[0]? = some 0x5A ∧ (encodeFrame c p)[1]? = some 0x5A ∧
    (encodeFrame c p)[2]? = some (BitVec.ofNat 8 (p.length + 2)) ∧
    (encodeFrame c p)[3]? = some c ∧
    (∀ k < p.length, (encodeFrame c p)[4 + k]? = p[k]?.map fun b => b + BitVec.ofNat 8 (k + 1)) ∧
    (encodeFrame c p)[p.length + 4]? =
      some ((sum8 ([BitVec.ofNat 8 (p.length + 2), c] ++ p) ^^^ 0xFF) + BitVec.ofNat 8 (p.length + 1))

/-- Checking a built frame returns its COMMAND_ID and payload: the first sentence of spec/40 R127. -/
def Obligations.DecodeFrameOfEncodeFrame : Prop :=
  ∀ (c : Byte) (p : List Byte), p.length ≤ 253 →
    decodeFrame (encodeFrame c p).length (encodeFrame c p) = .accepted c p

/-- A change of one byte of a built frame is caught: by the header check, the length check or the checksum, by where it
is; two changes that cancel are not (spec/40 R128). -/
def Obligations.OneChangedByteIsCaught : Prop :=
  (∀ (c : Byte) (p f : List Byte) (j : Nat), p.length ≤ 253 → f.length = (encodeFrame c p).length → j < f.length →
    (∀ k, k ≠ j → f[k]? = (encodeFrame c p)[k]?) → f[j]? ≠ (encodeFrame c p)[j]? →
    decodeFrame f.length f =
      .rejected (if j < 2 then .malformedHeader else if j = 2 then .lengthMismatch else .checksumMismatch)) ∧
  (∀ (c : Byte) (p : List Byte) (k : Nat), p.length ≤ 253 → k + 1 < p.length →
    ∃ q, decodeFrame (encodeFrame c p).length
      (((encodeFrame c p).modify (4 + k) (· + 1)).modify (5 + k) (· - 1)) = .accepted c q)

/-- The header check: MALFORMED_HEADER exactly for a buffer shorter than 5 bytes or without the fixed header, and a
DECODE of such a short buffer reads no byte of RX_FRAME (spec/40 R118). -/
def Obligations.HeaderCheckIsExact : Prop :=
  (∀ (n : Nat) (f : List Byte), f.length = min n 258 →
    (decodeFrame n f = .rejected .malformedHeader ↔ n < 5 ∨ f[0]? ≠ some 0x5A ∨ f[1]? ≠ some 0x5A)) ∧
  (∀ s : State, s.regs.rxFlen.toNat < 5 → ∃ t, exec .decode s = .next t ∧ t.regs.result = .malformedHeader)

/-- With a correct header, LENGTH_MISMATCH exactly when the declared length is not the buffer's, whatever the bytes
after LENGTH hold (spec/40 R129). -/
def Obligations.LengthCheckIsExact : Prop :=
  ∀ (n : Nat) (f : List Byte), 5 ≤ n → f.length = min n 258 → f[0]? = some 0x5A → f[1]? = some 0x5A →
    (decodeFrame n f = .rejected .lengthMismatch ↔ n ≠ 3 + (f.getD 2 0).toNat)

/-- With header and length correct, CHECKSUM_MISMATCH exactly when the recovered body does not sum to 0xFF, which is
when its last byte is not the checksum of those before it (spec/40 R121). -/
def Obligations.ChecksumCheckIsExact : Prop :=
  ∀ (len : Byte) (rest : List Byte), 2 ≤ len.toNat → rest.length = len.toNat →
    (decodeFrame (3 + len.toNat) (0x5A :: 0x5A :: len :: rest) = .rejected .checksumMismatch ↔
      sum8 (len :: untransformFrom 1 rest) ≠ 0xFF) ∧
    (decodeFrame (3 + len.toNat) (0x5A :: 0x5A :: len :: rest) = .rejected .checksumMismatch ↔
      (untransformFrom 1 rest).getLast? ≠ some (checksum (len :: (untransformFrom 1 rest).dropLast)))

/-- A buffer longer than RX_FRAME: the first 258 bytes decide, and DECODE answers what the whole buffer would
(spec/40 R125). -/
def Obligations.OverlongBufferLosesNothing : Prop :=
  ∀ (s : State) (whole : List Byte), 258 < s.regs.rxFlen.toNat → whole.length = s.regs.rxFlen.toNat →
    s.holds .rxFrame (whole.take 258) →
    decodeFrame whole.length (whole.take 258) = decodeFrame whole.length whole ∧
    ∃ t, exec .decode s = .next t ∧ t.regs.result =
      if whole[0]? = some 0x5A ∧ whole[1]? = some 0x5A then .lengthMismatch else .malformedHeader

/-- The BCD function, and its bound (spec/42 R163). -/
def Obligations.BcdIsTheFormula : Prop :=
  ∀ b : Byte, (bcd b).toNat = (b.toNat / 16) * 10 + b.toNat % 16 ∧ (bcd b).toNat ≤ 165

/-! ### What each operation does, with its frame -/

/-- NOP, CTRL value 0x00 alone, leaves RESULT = OK and touches nothing but BUSY, DONE and RESULT; STATUS keeps ACK and
REC_VALID (spec/30 R92, spec/43 R180). -/
def Obligations.NopOnlyCompletes : Prop :=
  (∀ v : Byte, decodeCtrl v = .nop ↔ v = 0x00) ∧ ∀ s : State, ∃ t, exec .nop s = .next t ∧
    t = { s with regs := { s.regs with busy := false, done := true, result := .ok } } ∧
    t.regs.statusByte = (s.regs.statusByte &&& 0x0C) ||| 0x02

/-- Every unassigned CTRL value completes with ILLEGAL_OP and changes nothing else (spec/30 R91, spec/43 R182). -/
def Obligations.IllegalOpOnlyCompletes : Prop :=
  ∀ (v : Byte) (s : State), (0x07 ≤ v.toNat ∧ v.toNat ≤ 0x0E) ∨ 0x10 ≤ v.toNat →
    ∃ t, decodeCtrl v = .illegalOp v ∧ exec (.illegalOp v) s = .next t ∧
      t = { s with regs := { s.regs with busy := false, done := true, result := .illegalOp } } ∧
      t.regs.statusByte = (s.regs.statusByte &&& 0x0C) ||| 0x62

/-- SOFT_RESET: every register byte of the window reads 0x00 but STATUS, which reads 0x02; the buffers, and the latch,
are unchanged (spec/43 R181). -/
def Obligations.SoftResetClearsRegistersAndKeepsBuffers : Prop :=
  decodeCtrl 0x0F = .softReset ∧ ∀ s : State, ∃ t, exec .softReset s = .next t ∧
    (∀ off, registerOffset off → off ≠ statusOffset → t.windowRead off = some 0x00) ∧
    t.windowRead statusOffset = some 0x02 ∧
    t.regs = { Regs.reset with done := true } ∧
    (∀ a, t.mem.read a = s.mem.read a) ∧ s.sameRest t

/-- ENCODE of a payload that fits: the frame, its length, ACK and RESULT, and nothing else; of one that does not:
TX_FLEN 0, PAYLOAD_TOO_LONG, no byte written (spec/40 R115, R116). -/
def Obligations.EncodeBuildsTheFrame : Prop :=
  decodeCtrl 0x01 = .encode ∧
  (∀ (s : State) (p : List Byte), p.length = s.regs.txPlen.toNat → p.length ≤ 253 → s.holds .txPayload p →
    ∃ t, exec .encode s = .next t ∧
      t.holds .txFrame (encodeFrame s.regs.txCmd p) ∧
      t.regs.txFlen.toNat = p.length + 5 ∧
      t.regs = { s.regs with
        busy := false, done := true, ack := false, result := .ok, txFlen := BitVec.ofNat 9 (p.length + 5) } ∧
      s.sameRest t ∧ s.sameOutside t .txFrame (p.length + 5)) ∧
  (∀ s : State, 253 < s.regs.txPlen.toNat →
    ∃ t, exec .encode s = .next t ∧
      t = { s with regs := { s.regs with
        busy := false, done := true, ack := false, result := .payloadTooLong, txFlen := 0 } })

/-- ENC_STATUS_QUERY and ENC_RESET_WORKTIME always build their fixed request, and set TX_CMD and TX_PLEN
(spec/41 R141, R142, R146). -/
def Obligations.FixedRequestsAreBuilt : Prop :=
  decodeCtrl 0x03 = .encStatusQuery ∧ decodeCtrl 0x04 = .encResetWorktime ∧ ∀ s : State,
    (∃ t, exec .encStatusQuery s = .next t ∧ t.holds .txFrame [0x5A, 0x5A, 0x02, 0x01, 0xFD] ∧
      t.regs = { s.regs with
        busy := false, done := true, ack := false, result := .ok, txCmd := 0x01, txPlen := 0, txFlen := 5 } ∧
      s.sameRest t ∧ s.sameOutside t .txFrame 5) ∧
    (∃ t, exec .encResetWorktime s = .next t ∧ t.holds .txFrame [0x5A, 0x5A, 0x02, 0x09, 0xF5] ∧
      t.regs = { s.regs with
        busy := false, done := true, ack := false, result := .ok, txCmd := 0x09, txPlen := 0, txFlen := 5 } ∧
      s.sameRest t ∧ s.sameOutside t .txFrame 5)

/-- ENC_SET_MODE builds `5A 5A 04 03 (mode+1) (prio+2) (ck+3)` from MODE_ARG and PRIO_ARG and records its inputs in
TX_CMD, TX_PLEN and TX_PAYLOAD[0..1] (spec/41 R143). -/
def Obligations.SetModeRequestIsBuilt : Prop :=
  decodeCtrl 0x05 = .encSetMode ∧ ∀ s : State, ∃ t, exec .encSetMode s = .next t ∧
    t.holds .txFrame [0x5A, 0x5A, 0x04, 0x03, s.regs.modeArg + 1, s.regs.prioArg + 2,
      ((0x04 + 0x03 + s.regs.modeArg + s.regs.prioArg) ^^^ 0xFF) + 3] ∧
    t.holds .txPayload [s.regs.modeArg, s.regs.prioArg] ∧
    t.regs = { s.regs with
      busy := false, done := true, ack := false, result := .ok, txCmd := 0x03, txPlen := 2, txFlen := 7 } ∧
    s.sameRest t ∧
    (∀ a, ¬(0x100 ≤ a ∧ a < 0x102) → ¬(0x200 ≤ a ∧ a < 0x207) → t.mem.read a = s.mem.read a)

/-- Each wire command leaves its own request in TX_FRAME, encoded from its own COMMAND_ID and payload: what its building
operation does (spec/41 R140; notes/assumptions/9 says what is the model's reading). -/
def Obligations.WireCommandBuildsItsOwnFrame : Prop :=
  ∀ (i : Instr) (c : Byte) (p : List Byte) (s : State), wireRequest i = some (c, p) →
    ∃ t, exec i s = .next t ∧ t.holds .txFrame (encode i) ∧ t.holds .txPayload p ∧
      t.regs = { s.regs with
        busy := false, done := true, ack := false, result := .ok, txCmd := c, txPlen := BitVec.ofNat 8 p.length,
        txFlen := BitVec.ofNat 9 (p.length + 5) } ∧
      s.sameRest t ∧
      (∀ a, ¬(0x100 ≤ a ∧ a < 0x100 + p.length) → ¬(0x200 ≤ a ∧ a < 0x205 + p.length) →
        t.mem.read a = s.mem.read a)

/-- What a frame check returns on success is the recovered body without LENGTH and checksum, the COMMAND_ID apart;
DECODE of a sound frame writes RX_CMD, RX_PLEN and the payload, sets ACK, clears REC_VALID, and nothing else
(spec/40 R122, R123). -/
def Obligations.DecodeAcceptsASoundFrame : Prop :=
  (∀ (len c : Byte) (rest p : List Byte), rest.length = len.toNat →
    decodeFrame (3 + len.toNat) (0x5A :: 0x5A :: len :: rest) = .accepted c p →
    p.length = len.toNat - 2 ∧ ∃ ck, untransformFrom 1 rest = c :: (p ++ [ck])) ∧
  ∀ (s : State) (f : List Byte) (c : Byte) (p : List Byte),
    f.length = min s.regs.rxFlen.toNat 258 → s.holds .rxFrame f →
    decodeFrame s.regs.rxFlen.toNat f = .accepted c p →
    ∃ t, exec .decode s = .next t ∧
      t.holds .rxPayload p ∧ p.length ≤ 253 ∧ t.regs.rxPlen.toNat = p.length ∧
      t.regs = { s.regs with
        busy := false, done := true, ack := true, recValid := false, result := .ok, rxCmd := c,
        rxPlen := BitVec.ofNat 8 p.length } ∧
      s.sameRest t ∧ s.sameOutside t .rxPayload p.length

/-- DECODE of a frame that fails a check: the code of the check, RX_CMD and RX_PLEN 0, ACK and REC_VALID cleared; every
RX_PAYLOAD byte has some value and nothing is said of which; nothing else changes (spec/40 R124). A buffer shorter than
5 bytes needs no byte of RX_FRAME (spec/40 R118). -/
def Obligations.DecodeRejectsABadFrame : Prop :=
  ∀ (s : State) (f : List Byte) (e : FrameError),
    f.length = s.regs.rxHeld → s.holds .rxFrame f →
    decodeFrame s.regs.rxFlen.toNat f = .rejected e →
    ∃ t, exec .decode s = .next t ∧
      t.written .rxPayload 253 ∧
      t.regs = { s.regs with
        busy := false, done := true, ack := false, recValid := false, result := e.result, rxCmd := 0, rxPlen := 0 } ∧
      s.sameLatch t ∧ s.sameOutside t .rxPayload 253

/-- DECODE depends on RX_FLEN and RX_FRAME alone, writes neither, and issued twice gives the same outputs
(spec/40 R126). -/
def Obligations.DecodeDependsOnTheResponseAlone : Prop :=
  ∀ s s' t : State, s'.regs.rxFlen = s.regs.rxFlen →
    (∀ k < 258, s'.mem.read (Buffer.rxFrame.addr k) = s.mem.read (Buffer.rxFrame.addr k)) →
    exec .decode s = .next t →
    (∃ t', exec .decode s' = .next t' ∧
      t'.regs.rxCmd = t.regs.rxCmd ∧ t'.regs.rxPlen = t.regs.rxPlen ∧ t'.regs.ack = t.regs.ack ∧
      t'.regs.recValid = t.regs.recValid ∧ t'.regs.result = t.regs.result ∧
      (t.regs.result = .ok → ∀ k < t.regs.rxPlen.toNat,
        t'.mem.read (Buffer.rxPayload.addr k) = t.mem.read (Buffer.rxPayload.addr k))) ∧
    t.regs.rxFlen = s.regs.rxFlen ∧
    (∀ k < 258, t.mem.read (Buffer.rxFrame.addr k) = s.mem.read (Buffer.rxFrame.addr k)) ∧
    (∃ u, exec .decode t = .next u ∧
      u.regs.rxCmd = t.regs.rxCmd ∧ u.regs.rxPlen = t.regs.rxPlen ∧ u.regs.ack = t.regs.ack ∧
      u.regs.recValid = t.regs.recValid ∧ u.regs.result = t.regs.result ∧
      (t.regs.result = .ok → ∀ k < t.regs.rxPlen.toNat,
        u.mem.read (Buffer.rxPayload.addr k) = t.mem.read (Buffer.rxPayload.addr k)))

/-- STATUS_EXTRACT of an acknowledged payload of 28 bytes or more writes the 21 record registers by their formulas
(spec/42 R160, R164 to R173). That the high nibble is the major version and that time fields are BCD are the spec's own
readings of its source (spec/92 D16, D17; notes/assumptions/16). -/
def Obligations.StatusExtractWritesTheRecord : Prop :=
  ∀ (s : State) (p : List Byte), s.regs.ack = true → 28 ≤ s.regs.rxPlen.toNat → p.length = 28 → s.holds .rxPayload p →
    ∃ t, exec .statusExtract s = .next t ∧
      t.regs.record.toList =
        [p.getD 1 0 >>> 4, p.getD 1 0 &&& 0x0F, bcd (p.getD 2 0), bcd (p.getD 3 0), bcd (p.getD 4 0),
         bcd (p.getD 5 0), bcd (p.getD 6 0), bcd (p.getD 7 0), p.getD 8 0, p.getD 9 0, p.getD 10 0,
         p.getD 13 0 &&& 0x21, p.getD 16 0, p.getD 17 0, p.getD 18 0, p.getD 20 0, p.getD 21 0 &&& 0x3E, p.getD 23 0,
         p.getD 24 0, p.getD 25 0 &&& 0x80, p.getD 27 0] ∧
      t = { s with regs := { s.regs with
        busy := false, done := true, recValid := true, result := .ok, record := t.regs.record } }

/-- STATUS_EXTRACT without an acknowledged payload, and with one that is too short, in that priority: no record register
written; 28 bytes are enough (spec/42 R161, R162; spec/60 R204). -/
def Obligations.StatusExtractPreconditions : Prop :=
  ∀ s : State,
    (s.regs.ack = false → ∃ t, exec .statusExtract s = .next t ∧
      t = { s with regs := { s.regs with busy := false, done := true, recValid := false, result := .noPayload } }) ∧
    (s.regs.ack = true → s.regs.rxPlen.toNat < 28 → ∃ t, exec .statusExtract s = .next t ∧
      t = { s with regs := { s.regs with
        busy := false, done := true, recValid := false, result := .tooShortPayload } }) ∧
    (s.regs.ack = true → s.regs.rxPlen.toNat = 28 → s.written .rxPayload 28 →
      ∃ t, exec .statusExtract s = .next t ∧ t.regs.result = .ok)

/-- STATUS_EXTRACT depends on no payload byte at an unnamed offset nor beyond offset 27 (spec/42 R174). -/
def Obligations.StatusExtractIgnoresUnnamedOffsets : Prop :=
  ∀ s s' t : State, s'.regs = s.regs →
    (∀ k < 28, k ∉ [0, 11, 12, 14, 15, 19, 22, 26] →
      s'.mem.read (Buffer.rxPayload.addr k) = s.mem.read (Buffer.rxPayload.addr k)) →
    exec .statusExtract s = .next t →
    ∃ t', exec .statusExtract s' = .next t' ∧ t'.regs = t.regs ∧ t'.mem = s'.mem

/-- An operand byte nothing has written since reset stops the operation that reads it, and a host read of such a byte
stops too (spec/70 R231; which bytes DECODE reads is notes/assumptions/7). -/
def Obligations.UnwrittenBytesStop : Prop :=
  (∀ s : State, s.regs.txPlen.toNat ≤ 253 → ¬s.written .txPayload s.regs.txPlen.toNat →
    exec .encode s = .fault .unwrittenOperand) ∧
  (∀ s : State, 5 ≤ s.regs.rxFlen.toNat → ¬s.written .rxFrame (min s.regs.rxFlen.toNat 258) →
    exec .decode s = .fault .unwrittenOperand) ∧
  (∀ (s : State) (b : Buffer) (k : Nat) (rest : List HostMove), s.regs.busy = false → k < b.size →
    s.host = .read (b.offset k) :: rest → s.mem.read (b.addr k) = none →
    step s = .fault (.unwrittenRead (b.offset k))) ∧
  (∀ (b : Buffer) (k : Nat), State.reset.mem.read (b.addr k) = none)

/-! ### Every operation -/

/-- An operation that has its operands always completes, with BUSY cleared and DONE set (spec/43 R185, R186); one with an
operand byte nothing has written since reset stops for that reason and no other (spec/70 R231, R234; spec/30 R93). Which
bytes DECODE and STATUS_EXTRACT read is the model's reading of spec/40 R118 and spec/42 R174 (notes/assumptions/7
and 8). -/
def Obligations.EveryOperationCompletes : Prop :=
  ∀ (i : Instr) (s : State),
    (s.Ready i → ∃ t, exec i s = .next t ∧ t.regs.busy = false ∧ t.regs.done = true) ∧
    (¬s.Ready i → exec i s = .fault .unwrittenOperand)

/-- What a completion may write: the write column of spec/30 R93, said as what each operation leaves alone
(spec/10 R32 to R42). -/
def Obligations.OperationsWriteOnlyTheirOutputs : Prop :=
  ∀ (i : Instr) (s t : State), exec i s = .next t →
    (∀ k < 258, t.mem.read (Buffer.rxFrame.addr k) = s.mem.read (Buffer.rxFrame.addr k)) ∧
    (setsModePayload i = false →
      ∀ k < 253, t.mem.read (Buffer.txPayload.addr k) = s.mem.read (Buffer.txPayload.addr k)) ∧
    (buildsRequest i = false →
      ∀ k < 258, t.mem.read (Buffer.txFrame.addr k) = s.mem.read (Buffer.txFrame.addr k)) ∧
    (i ≠ .decode → ∀ k < 253, t.mem.read (Buffer.rxPayload.addr k) = s.mem.read (Buffer.rxPayload.addr k)) ∧
    (i ≠ .softReset → t.regs.rxFlen = s.regs.rxFlen ∧ t.regs.modeArg = s.regs.modeArg ∧
      t.regs.prioArg = s.regs.prioArg) ∧
    (i ≠ .softReset → buildsRequest i = false → t.regs.txFlen = s.regs.txFlen) ∧
    (i ≠ .softReset → i ≠ .decode → t.regs.rxCmd = s.regs.rxCmd ∧ t.regs.rxPlen = s.regs.rxPlen) ∧
    (i ≠ .softReset → (i = .encode ∨ buildsRequest i = false) →
      t.regs.txCmd = s.regs.txCmd ∧ t.regs.txPlen = s.regs.txPlen) ∧
    (i ≠ .softReset → t.regs.record = s.regs.record ∨ (i = .statusExtract ∧ t.regs.result = .ok)) ∧
    s.sameLatch t

/-- What changes ACK, over every step of the machine: the completions spec/10 R27 names, and a hardware reset. -/
def Obligations.AckChangesOnlyAsStated : Prop :=
  ∀ s t : State, step s = .next t →
    (s.codecTurn = true → t.regs.ack =
      match s.fetch with
      | .encode | .encStatusQuery | .encResetWorktime | .encSetMode | .softReset => false
      | .decode => decide (t.regs.result = .ok)
      | _ => s.regs.ack) ∧
    (s.codecTurn = false → s.resets → t.regs.ack = false) ∧
    (s.codecTurn = false → ¬s.resets → t.regs.ack = s.regs.ack)

/-- What changes REC_VALID, over every step of the machine (spec/10 R28). -/
def Obligations.RecValidChangesOnlyAsStated : Prop :=
  ∀ s t : State, step s = .next t →
    (s.codecTurn = true → t.regs.recValid =
      match s.fetch with
      | .statusExtract => decide (t.regs.result = .ok)
      | .decode | .softReset => false
      | _ => s.regs.recValid) ∧
    (s.codecTurn = false → s.resets → t.regs.recValid = false) ∧
    (s.codecTurn = false → ¬s.resets → t.regs.recValid = s.regs.recValid)

/-- What changes BUSY and DONE, over every step of the machine: a CTRL write starts, a completion ends, a hardware reset
clears; nothing else (spec/10 R25, R26). -/
def Obligations.BusyAndDoneChangeOnlyAsStated : Prop :=
  ∀ s t : State, step s = .next t →
    (s.codecTurn = true → t.regs.busy = false ∧ t.regs.done = true) ∧
    (s.codecTurn = false → s.resets → t.regs.busy = false ∧ t.regs.done = false) ∧
    (s.codecTurn = false → s.writesCtrl → t.regs.busy = true ∧ t.regs.done = false) ∧
    (s.codecTurn = false → ¬s.resets → ¬s.writesCtrl →
      t.regs.busy = s.regs.busy ∧ t.regs.done = s.regs.done)

/-- What changes RESULT, over every step of the machine: each completion writes its code, a hardware reset writes OK, and
everything else, a CTRL write and every step while BUSY = 1 before the completion included, keeps it (spec/10 R29; the
codes spec/60 R200, R202). The catalog operations and SOFT_RESET complete with OK (spec/41 R141 to R143, spec/43 R181). -/
def Obligations.ResultChangesOnlyAsStated : Prop :=
  ∀ s t : State, step s = .next t →
    (s.codecTurn = true →
      match s.fetch with
      | .encode => t.regs.result = if 253 < s.regs.txPlen.toNat then .payloadTooLong else .ok
      | .decode => t.regs.result ∈ [.ok, .malformedHeader, .lengthMismatch, .checksumMismatch]
      | .statusExtract => t.regs.result =
          if s.regs.ack = false then .noPayload else if s.regs.rxPlen.toNat < 28 then .tooShortPayload else .ok
      | .illegalOp _ => t.regs.result = .illegalOp
      | _ => t.regs.result = .ok) ∧
    (s.codecTurn = false → s.resets → t.regs.result = .ok) ∧
    (s.codecTurn = false → ¬s.resets → t.regs.result = s.regs.result)

/-! ### The step, the window and the host -/

/-- A step with an operation running and no latency left is exec of the instruction PENDING_OP holds, with nothing around
it (spec/43 R185), and the state made for an instruction steps to that instruction's outcome. -/
def Obligations.StepRunsThePendingInstruction : Prop :=
  (∀ s : State, s.regs.busy = true → s.latency = 0 → step s = exec (decodeCtrl s.pendingOp) s) ∧
  (∀ (i : Instr) (s : State), i.wf = true → step (State.issue i s) = exec i (State.issue i s)) ∧
  (∀ (s : State) (nbits w : Nat) (i : Instr), decodeTableWord nbits w = some i →
    s.withFetchWord nbits w = State.issue i s)

/-- A CTRL write with BUSY = 0 latches the value, sets BUSY, clears DONE and leaves every other register and every buffer
byte; with BUSY = 1 it is the hazard (spec/43 R184). -/
def Obligations.CtrlWriteStartsAnOperation : Prop :=
  ∀ (s : State) (v : Byte) (rest : List HostMove), s.host = .write 0x000 v :: rest →
    (s.regs.busy = false → ∃ t, step s = .next t ∧ t.pendingOp = v ∧
      t.regs = { s.regs with busy := true, done := false } ∧ t.mem = s.mem ∧ t.host = rest ∧
      t.readData = s.readData) ∧
    (s.regs.busy = true → 0 < s.latency → step s = .fault .hazard)

/-- While an operation runs the host may only read STATUS: that read answers with BUSY = 1 and changes nothing of the
block; every other access is the hazard, a reserved offset's and a second start's too (spec/70 R240). -/
def Obligations.OnlyStatusMayBeReadWhileBusy : Prop :=
  ∀ (s : State) (off : Offset) (rest : List HostMove), s.regs.busy = true → 0 < s.latency →
    (s.host = .read off :: rest → off ≠ 0x001 → step s = .fault .hazard) ∧
    (∀ v, s.host = .write off v :: rest → step s = .fault .hazard) ∧
    (s.host = .writeLast off :: rest → step s = .fault .hazard) ∧
    (s.host = .read 0x001 :: rest → ∃ t, step s = .next t ∧ t.readData = s.regs.statusByte ∧
      t.readData.getLsbD 0 = true ∧ t.regs = s.regs ∧ t.mem = s.mem ∧ t.pendingOp = s.pendingOp ∧ t.host = rest)

/-- A reserved offset reads 0x00 and ignores writes, with no other effect; while BUSY = 1 both are hazards
(spec/20 R62). -/
def Obligations.ReservedOffsetsReadZero : Prop :=
  ∀ (s : State) (off : Offset) (v : Byte) (rest : List HostMove), reservedOffset off →
    (s.regs.busy = false → s.host = .read off :: rest → step s = .next { s with host := rest, readData := 0x00 }) ∧
    (s.regs.busy = false → s.host = .write off v :: rest → step s = .next { s with host := rest }) ∧
    (s.regs.busy = true → 0 < s.latency → s.host = .read off :: rest → step s = .fault .hazard) ∧
    (s.regs.busy = true → 0 < s.latency → s.host = .write off v :: rest → step s = .fault .hazard)

/-- Writes to read-only places are ignored, and CTRL reads 0x00 (spec/20 R66). -/
def Obligations.ReadOnlyPlacesIgnoreWrites : Prop :=
  (∀ (s : State) (off : Offset) (v : Byte) (rest : List HostMove), readOnlyOffset off → s.regs.busy = false →
    s.host = .write off v :: rest → step s = .next { s with host := rest }) ∧
  (∀ (s : State) (rest : List HostMove), s.regs.busy = false → s.host = .read 0x000 :: rest →
    step s = .next { s with host := rest, readData := 0x00 })

/-- Reads have no side effect, also while BUSY = 1, and repeat while BUSY = 0; a write other than to CTRL changes at most
its own byte and is idempotent; every CTRL write starts an operation (spec/20 R65). -/
def Obligations.OnlyCtrlWritesHaveSideEffects : Prop :=
  (∀ (s t : State) (off : Offset) (rest : List HostMove), s.regs.busy = false → s.host = .read off :: rest →
    step s = .next t → t = { s with host := rest, readData := t.readData } ∧
      some t.readData = s.windowRead off ∧ t.windowRead off = s.windowRead off) ∧
  (∀ (s : State) (rest : List HostMove), s.regs.busy = true → 0 < s.latency → s.host = .read 0x001 :: rest →
    ∃ t, step s = .next t ∧ t = { s with host := rest, readData := t.readData, latency := t.latency }) ∧
  (∀ (s : State) (off : Offset) (v : Byte) (rest : List HostMove), off ≠ 0x000 → s.regs.busy = false →
    s.host = .write off v :: .write off v :: rest →
    ∃ t u, step s = .next t ∧ step t = .next u ∧ t.host = .write off v :: rest ∧ u = { t with host := rest } ∧
      t.regs.busy = false ∧ t.pendingOp = s.pendingOp ∧
      ∀ other, other ≠ off → t.windowRead other = s.windowRead other) ∧
  (∀ (s : State) (v : Byte) (rest : List HostMove), s.regs.busy = false → s.host = .write 0x000 v :: rest →
    ∃ t, step s = .next t ∧ t.regs.busy = true ∧ t.pendingOp = v)

/-- A byte the host may write reads back as written, it is the register or buffer byte of its offset that is set, and no
other byte of the window changes: a rewrite of an input changes nothing already computed (spec/10 R22, R30 to R33, R35,
R39, R41; spec/70 R245). -/
def Obligations.WritableBytesReadBack : Prop :=
  ∀ (s : State) (off : Offset) (v : Byte) (rest : List HostMove), readWriteOffset off → s.regs.busy = false →
    s.host = .write off v :: rest →
    ∃ t, step s = .next t ∧ t.windowRead off = some v ∧
      (∀ other, other ≠ off → t.windowRead other = s.windowRead other) ∧
      t.host = rest ∧ t.pendingOp = s.pendingOp ∧ t.draws = s.draws ∧
      (off.toNat = 0x002 → t.regs = { s.regs with txCmd := v }) ∧
      (off.toNat = 0x003 → t.regs = { s.regs with txPlen := v }) ∧
      (off.toNat = 0x004 → t.regs = { s.regs with modeArg := v }) ∧
      (off.toNat = 0x005 → t.regs = { s.regs with prioArg := v }) ∧
      (off.toNat = 0x008 → t.regs =
        { s.regs with rxFlen := BitVec.ofNat 16 (s.regs.rxFlen.toNat / 256 * 256 + v.toNat) }) ∧
      (off.toNat = 0x009 → t.regs =
        { s.regs with rxFlen := BitVec.ofNat 16 (v.toNat * 256 + s.regs.rxFlen.toNat % 256) }) ∧
      (off.toNat < 0x100 → t.mem = s.mem) ∧
      (∀ k < 253, off.toNat = 0x100 + k → t.regs = s.regs ∧ t.mem.read (Buffer.txPayload.addr k) = some v ∧
        ∀ a, a ≠ Buffer.txPayload.addr k → t.mem.read a = s.mem.read a) ∧
      (∀ k < 258, off.toNat = 0x400 + k → t.regs = s.regs ∧ t.mem.read (Buffer.rxFrame.addr k) = some v ∧
        ∀ a, a ≠ Buffer.rxFrame.addr k → t.mem.read a = s.mem.read a)

/-- What stands at each offset: the one-byte registers of spec/10 R22, the 21 record registers of R38 in its order, and
the buffer bytes of R39 to R42; STATUS and the two lengths have statements of their own. The offsets the host notation
names are these (spec/30 R94). -/
def Obligations.WindowShowsRegistersAndBuffers : Prop :=
  ∀ s : State,
    s.windowRead 0x002 = some s.regs.txCmd ∧ s.windowRead 0x003 = some s.regs.txPlen ∧
    s.windowRead 0x004 = some s.regs.modeArg ∧ s.windowRead 0x005 = some s.regs.prioArg ∧
    s.windowRead 0x00A = some s.regs.rxCmd ∧ s.windowRead 0x00B = some s.regs.rxPlen ∧
    (∀ k < 21, s.windowRead (BitVec.ofNat 11 (0x020 + k)) = s.regs.record.toList[k]?) ∧
    s.regs.record.toList =
      [s.regs.record.verMajor, s.regs.record.verMinor, s.regs.record.hour, s.regs.record.minute, s.regs.record.second,
       s.regs.record.day, s.regs.record.month, s.regs.record.yearOfs, s.regs.record.opMode, s.regs.record.opState,
       s.regs.record.statusCode, s.regs.record.alarms, s.regs.record.setTemp, s.regs.record.boilerTemp,
       s.regs.record.dhwTemp, s.regs.record.flame, s.regs.record.actuators, s.regs.record.fan, s.regs.record.power,
       s.regs.record.thermo, s.regs.record.workTime] ∧
    (∀ k < 253, s.windowRead (BitVec.ofNat 11 (0x100 + k)) = s.mem.read (Buffer.txPayload.addr k)) ∧
    (∀ k < 258, s.windowRead (BitVec.ofNat 11 (0x200 + k)) = s.mem.read (Buffer.txFrame.addr k)) ∧
    (∀ k < 258, s.windowRead (BitVec.ofNat 11 (0x400 + k)) = s.mem.read (Buffer.rxFrame.addr k)) ∧
    (∀ k < 253, s.windowRead (BitVec.ofNat 11 (0x600 + k)) = s.mem.read (Buffer.rxPayload.addr k)) ∧
    (∀ (b : Buffer) (k : Nat), k < b.size → s.windowRead (b.offset k) = s.mem.read (b.addr k))

/-- The bytes of the two lengths: LO at the lower offset holds bits 7:0, HI at the next the upper bits
(spec/20 R68, spec/10 R34, R35). -/
def Obligations.LengthsReadLowByteFirst : Prop :=
  ∀ s : State,
    s.windowRead 0x006 = some (BitVec.ofNat 8 s.regs.txFlen.toNat) ∧
    s.windowRead 0x007 = some (BitVec.ofNat 8 (s.regs.txFlen.toNat / 256)) ∧
    s.windowRead 0x008 = some (BitVec.ofNat 8 s.regs.rxFlen.toNat) ∧
    s.windowRead 0x009 = some (BitVec.ofNat 8 (s.regs.rxFlen.toNat / 256)) ∧
    ∀ hi lo : Byte, ((s.regs.writeRxFlenLo lo).writeRxFlenHi hi).rxFlen.toNat = hi.toNat * 256 + lo.toNat

/-- STATUS read as a byte: each field at its bits, bit 7 zero, and the numbers of the result codes (spec/10 R24,
spec/60 R200). -/
def Obligations.StatusByteLayout : Prop :=
  (∀ s : State, ∃ b, s.windowRead 0x001 = some b ∧
    b.getLsbD 0 = s.regs.busy ∧ b.getLsbD 1 = s.regs.done ∧ b.getLsbD 2 = s.regs.ack ∧
    b.getLsbD 3 = s.regs.recValid ∧ b.extractLsb' 4 3 = s.regs.result.code ∧ b.getLsbD 7 = false) ∧
  [ResultCode.ok, .malformedHeader, .lengthMismatch, .checksumMismatch, .tooShortPayload, .payloadTooLong, .illegalOp,
    .noPayload].map ResultCode.code = [0, 1, 2, 3, 4, 5, 6, 7]

/-- Reset, and an RST event in any state, also while an operation runs: every register reads 0x00 and no buffer byte has a
value (spec/70 R230, R231, R232). -/
def Obligations.HardwareResetClearsEverything : Prop :=
  (∀ off, registerOffset off → State.reset.windowRead off = some 0x00) ∧
  (∀ (s : State) (rest : List HostMove), s.codecTurn = false → s.host = .rst :: rest →
    ∃ t, step s = .next t ∧ t.regs = State.reset.regs ∧ t.host = rest ∧
      (∀ off, registerOffset off → t.windowRead off = some 0x00) ∧
      (∀ (b : Buffer) (k : Nat), t.mem.read (b.addr k) = none))

/-- A host address is in the window exactly from FC_BASE to FC_BASE + 0x7FF, and its offset is its distance, for every
base (spec/00 R8, spec/20 R60, R61). -/
def Obligations.WindowIsWhereTheBaseSays : Prop :=
  (∀ off : Offset, offsetOf (busAddress off) = some off) ∧
  (∀ addr : Nat, offsetOf addr = none ↔ addr < Config.fcBase ∨ Config.fcBase + 0x800 ≤ addr)

/-! ### Invariants and runs -/

/-- The invariant holds at reset. -/
def Obligations.ResetMeetsTheInvariant : Prop := State.reset.Inv

/-- Every step keeps the invariant: the buffer memory's canonical form, BUSY and DONE never both 1 (spec/10 R24), legal
lengths (R34, R37), the counted bytes there (R40, R42), record values the formulas can give (spec/42), flags that agree
with the result code (spec/60 R201, spec/90 C5). -/
def Obligations.StepKeepsTheInvariant : Prop :=
  ∀ s t : State, s.Inv → step s = .next t → t.Inv

/-- BUSY = 1 and DONE = 1 never hold at once after a step, whatever the state before (spec/10 R24). -/
def Obligations.BusyAndDoneNeverTogether : Prop :=
  ∀ s t : State, ¬(s.regs.busy = true ∧ s.regs.done = true) → step s = .next t →
    ¬(t.regs.busy = true ∧ t.regs.done = true)

/-- Under the invariant STATUS_EXTRACT always completes: no run reads a payload byte that is not there
(spec/42 R160 to R162, R175). -/
def Obligations.StatusExtractNeverStops : Prop :=
  ∀ s : State, s.Inv → ∃ t, exec .statusExtract s = .next t ∧
    (t.regs.result = .ok ∨ t.regs.result = .noPayload ∨ t.regs.result = .tooShortPayload)

/-- Under the invariant the outputs spec/70 R242 calls meaningful can be read: the frame up to TX_FLEN, and the payload
up to RX_PLEN while ACK = 1. -/
def Obligations.MeaningfulOutputsCanBeRead : Prop :=
  ∀ (s : State) (k : Nat) (rest : List HostMove), s.Inv → s.regs.busy = false →
    (k < s.regs.txFlen.toNat → s.host = .read (Buffer.txFrame.offset k) :: rest →
      ∃ v, s.mem.read (Buffer.txFrame.addr k) = some v ∧ step s = .next { s with host := rest, readData := v }) ∧
    (s.regs.ack = true → k < s.regs.rxPlen.toNat → s.host = .read (Buffer.rxPayload.offset k) :: rest →
      ∃ v, s.mem.read (Buffer.rxPayload.addr k) = some v ∧ step s = .next { s with host := rest, readData := v })

/-- A started operation completes: with the host idle or polling, the step after the latency has passed is the
operation's own (spec/43 R185, R186; spec/70 R241, R247). The countdown of the latency and the poll as one move that
stays are the model's (notes/assumptions/2 and 15). -/
def Obligations.StartedOperationCompletes : Prop :=
  ∀ s : State, s.regs.busy = true →
    (s.host = [] → s.run (s.latency + 1) = exec (decodeCtrl s.pendingOp) { s with latency := 0 }) ∧
    (∀ rest, s.host = .poll :: rest →
      s.run (s.latency + 1) = exec (decodeCtrl s.pendingOp)
        { s with latency := 0, readData := if s.latency = 0 then s.readData else s.regs.statusByte })

/-- `exec NAME` runs the operation to its end and leaves its outputs (spec/30 R95, spec/43 R184, R185). The countdown of
the latency and the `wait` of `exec` as the one move `poll` are the model's (notes/assumptions/2 and 15). -/
def Obligations.HostExecRunsTheOperation : Prop :=
  ∀ (s u : State) (i : Instr) (rest : List HostMove), s.regs.busy = false → s.host = hostExec i ++ rest →
    exec (decodeCtrl i.opCode) { s.start i.opCode with latency := 0 } = .next u →
    ∃ n t, s.run n = .next t ∧ t.regs = u.regs ∧ t.mem = u.mem ∧ t.host = rest ∧
      t.readData = u.regs.statusByte

/-- ENCODE, then `loopback`, then DECODE, run by the host from any idle state with a payload in place, ends with
RESULT = OK and the COMMAND_ID and payload that were sent (the register terms of spec/40 R127). The list of moves is the
model's form of spec/30 R95: its byte count is an argument, equal to the TX_FLEN that its first two reads return, each
copied byte is a read and a `writeLast`, and each `wait` is one `poll` (notes/assumptions/15). -/
def Obligations.LoopbackRunReturnsThePayload : Prop :=
  ∀ (s : State) (p : List Byte) (rest : List HostMove), s.regs.busy = false →
    p.length = s.regs.txPlen.toNat → p.length ≤ 253 → s.holds .txPayload p →
    s.host = hostExec .encode ++ hostLoopback (p.length + 5) ++ hostExec .decode ++ rest →
    ∃ n t, s.run n = .next t ∧ t.host = rest ∧ t.regs.busy = false ∧
      t.regs.result = .ok ∧ t.regs.ack = true ∧ t.regs.rxCmd = s.regs.txCmd ∧ t.regs.rxPlen = s.regs.txPlen ∧
      t.holds .rxPayload p ∧ t.holds .txPayload p
end

