-- ==== Sys2Proof/Laws/Memory.lean ====
section
/-! SUPPORT. Laws of the buffer memory: read after write, ranges, and that every write keeps the canonical form. -/

namespace Sys2Proof.Machine

theorem Memory.read_write_same (m : Memory) (a : Nat) (v : Byte) : (m.write a v).read a = some v := by
  induction m with
  | nil => simp [Memory.write, Memory.read]
  | cons cell cells ih =>
    obtain ⟨k, b⟩ := cell
    simp only [Memory.write]
    split
    · simp [Memory.read]
    · split
      · simp [Memory.read]
      · rename_i _ h
        simp [Memory.read, h, ih]

theorem Memory.read_write_other (m : Memory) {a c : Nat} (v : Byte) (h : c ≠ a) :
    (m.write a v).read c = m.read c := by
  induction m with
  | nil => simp [Memory.write, Memory.read, Ne.symm h]
  | cons cell cells ih =>
    obtain ⟨k, b⟩ := cell
    simp only [Memory.write]
    split
    · simp [Memory.read, Ne.symm h]
    · split
      · rename_i _ hk
        subst hk
        simp [Memory.read, Ne.symm h]
      · simp [Memory.read, ih]

theorem Memory.write_write (m : Memory) (a : Nat) (v : Byte) : (m.write a v).write a v = m.write a v := by
  induction m with
  | nil => simp [Memory.write]
  | cons cell cells ih =>
    obtain ⟨k, b⟩ := cell
    by_cases h1 : a < k
    · simp [Memory.write, h1]
    · by_cases h2 : k = a
      · simp [Memory.write, h2]
      · simp [Memory.write, h1, h2, ih]

/-- What a range write leaves at an offset: the byte written there, or what was there. -/
theorem Memory.read_writeRange (m : Memory) (a : Nat) (bs : List Byte) (c : Nat) :
    (m.writeRange a bs).read c = if a ≤ c ∧ c < a + bs.length then bs[c - a]? else m.read c := by
  induction bs generalizing m a with
  | nil => simp [Memory.writeRange]
  | cons b bs ih =>
    simp only [Memory.writeRange, ih, List.length_cons]
    rcases Nat.lt_trichotomy c a with h | h | h
    · rw [if_neg (by omega), if_neg (by omega), Memory.read_write_other _ _ (by omega)]
    · subst h
      rw [if_neg (by omega), if_pos (by omega), Memory.read_write_same]
      simp
    · by_cases hc : c < a + 1 + bs.length
      · rw [if_pos (by omega), if_pos (by omega), show c - a = (c - (a + 1)) + 1 by omega, List.getElem?_cons_succ]
      · rw [if_neg (by omega), if_neg (by omega), Memory.read_write_other _ _ (by omega)]

theorem Memory.read_writeRange_outside (m : Memory) {a c : Nat} (bs : List Byte)
    (h : ¬(a ≤ c ∧ c < a + bs.length)) : (m.writeRange a bs).read c = m.read c := by
  rw [Memory.read_writeRange, if_neg h]

theorem Memory.read_writeRange_inside (m : Memory) (a : Nat) (bs : List Byte) {k : Nat} (h : k < bs.length) :
    (m.writeRange a bs).read (a + k) = bs[k]? := by
  rw [Memory.read_writeRange, if_pos (by omega), show a + k - a = k by omega]

/-- A range has a value exactly when it is some list of bytes, read one by one. -/
theorem Memory.readRange_eq_some (m : Memory) (a n : Nat) (bs : List Byte) :
    m.readRange a n = some bs ↔ bs.length = n ∧ ∀ k < n, m.read (a + k) = bs[k]? := by
  induction n generalizing a bs with
  | zero =>
    simp only [Memory.readRange, Option.some.injEq]
    constructor
    · rintro rfl; simp
    · intro h; exact (List.eq_nil_of_length_eq_zero h.1).symm
  | succ n ih =>
    simp only [Memory.readRange]
    constructor
    · intro h
      split at h
      · rename_i b cs hb hcs
        obtain rfl := Option.some.inj h
        obtain ⟨hl, hr⟩ := (ih _ _).mp hcs
        refine ⟨by simp [hl], fun k hk => ?_⟩
        cases k with
        | zero => simpa using hb
        | succ k =>
          rw [List.getElem?_cons_succ, ← hr k (by omega)]
          congr 1; omega
      · cases h
    · rintro ⟨hl, hr⟩
      cases bs with
      | nil => simp at hl
      | cons b cs =>
        have h0 : m.read a = some b := by simpa using hr 0 (by omega)
        have h1 : m.readRange (a + 1) n = some cs := by
          refine (ih _ _).mpr ⟨by simpa using hl, fun k hk => ?_⟩
          have := hr (k + 1) (by omega)
          rw [List.getElem?_cons_succ] at this
          rw [← this]; congr 1; omega
        simp [h0, h1]

/-- A range has no value exactly when one of its bytes has none. -/
theorem Memory.readRange_isSome (m : Memory) (a n : Nat) :
    (m.readRange a n).isSome = true ↔ ∀ k < n, (m.read (a + k)).isSome = true := by
  induction n generalizing a with
  | zero => simp [Memory.readRange]
  | succ n ih =>
    have hstep : (m.readRange a (n + 1)).isSome = true ↔
        (m.read a).isSome = true ∧ (m.readRange (a + 1) n).isSome = true := by
      simp only [Memory.readRange]
      cases m.read a <;> cases m.readRange (a + 1) n <;> simp
    rw [hstep, ih]
    constructor
    · rintro ⟨h0, h1⟩ k hk
      cases k with
      | zero => simpa using h0
      | succ k =>
        have := h1 k (by omega)
        rwa [show a + 1 + k = a + (k + 1) by omega] at this
    · intro h
      refine ⟨by simpa using h 0 (by omega), fun k hk => ?_⟩
      have := h (k + 1) (by omega)
      rwa [show a + (k + 1) = a + 1 + k by omega] at this

theorem Memory.risingFrom_write (m : Memory) {low a : Nat} (v : Byte) (hm : Memory.risingFrom low m = true)
    (ha : low ≤ a) : Memory.risingFrom low (m.write a v) = true := by
  induction m generalizing low with
  | nil => simp [Memory.write, Memory.risingFrom, ha]
  | cons cell cells ih =>
    obtain ⟨k, b⟩ := cell
    simp only [Memory.risingFrom, Bool.and_eq_true, decide_eq_true_eq] at hm
    simp only [Memory.write]
    split
    · simp only [Memory.risingFrom, Bool.and_eq_true, decide_eq_true_eq]
      exact ⟨ha, by omega, hm.2⟩
    · split
      · rename_i _ hk
        subst hk
        simpa [Memory.risingFrom, ha] using hm.2
      · simp only [Memory.risingFrom, Bool.and_eq_true, decide_eq_true_eq]
        exact ⟨hm.1, ih hm.2 (by omega)⟩

theorem Memory.all_write (m : Memory) (p : Nat → Bool) (a : Nat) (v : Byte) (hm : m.all (fun c => p c.1) = true)
    (ha : p a = true) : (m.write a v).all (fun c => p c.1) = true := by
  induction m with
  | nil => simp [Memory.write, ha]
  | cons cell cells ih =>
    obtain ⟨k, b⟩ := cell
    simp only [List.all_cons, Bool.and_eq_true] at hm
    simp only [Memory.write]
    split
    · simp only [List.all_cons, Bool.and_eq_true]
      exact ⟨ha, hm⟩
    · split
      · simp only [List.all_cons, Bool.and_eq_true]
        exact ⟨ha, hm.2⟩
      · simp only [List.all_cons, Bool.and_eq_true]
        exact ⟨hm.1, ih hm.2⟩

/-- A write into a buffer keeps the canonical form. -/
theorem Memory.wf_write (m : Memory) (a : Nat) (v : Byte) (hm : m.wf = true) (ha : inBuffer a = true) :
    (m.write a v).wf = true := by
  simp only [Memory.wf, Bool.and_eq_true] at hm ⊢
  exact ⟨Memory.risingFrom_write m v hm.1 (Nat.zero_le a), Memory.all_write m inBuffer a v hm.2 ha⟩

/-- A range write into a buffer keeps the canonical form. -/
theorem Memory.wf_writeRange (m : Memory) (a : Nat) (bs : List Byte) (hm : m.wf = true)
    (ha : ∀ k < bs.length, inBuffer (a + k) = true) : (m.writeRange a bs).wf = true := by
  induction bs generalizing m a with
  | nil => exact hm
  | cons b bs ih =>
    refine ih _ _ (Memory.wf_write m a b hm (by simpa using ha 0 (by simp))) fun k hk => ?_
    have := ha (k + 1) (by simpa using hk)
    rwa [show a + (k + 1) = a + 1 + k by omega] at this

theorem Memory.wf_nil : Memory.wf [] = true := rfl

/-- A byte of a buffer lies in the window's buffers. -/
theorem Buffer.inBuffer_addr (b : Buffer) {k : Nat} (h : k < b.size) : inBuffer (b.addr k) = true := by
  cases b <;> simp [Buffer.size] at h <;>
    simp [inBuffer, Buffer.holds, Buffer.addr, Buffer.base, Buffer.size] <;> omega

end Sys2Proof.Machine
end

