-- ==== Sys2Proof/Laws/State.lean ====
section
/-! SUPPORT. One lemma per field per named update of the state, each true by unfolding, so that no proof unfolds a
record update again. -/

namespace Sys2Proof.Machine

@[simp] theorem State.complete_regs (s : State) (code : ResultCode) :
    (s.complete code).regs = s.regs.completed code := rfl
@[simp] theorem State.complete_mem (s : State) (code : ResultCode) :
    (s.complete code).mem = s.mem := rfl
@[simp] theorem State.complete_pendingOp (s : State) (code : ResultCode) :
    (s.complete code).pendingOp = s.pendingOp := rfl
@[simp] theorem State.complete_latency (s : State) (code : ResultCode) :
    (s.complete code).latency = s.latency := rfl
@[simp] theorem State.complete_draws (s : State) (code : ResultCode) :
    (s.complete code).draws = s.draws := rfl
@[simp] theorem State.complete_host (s : State) (code : ResultCode) :
    (s.complete code).host = s.host := rfl
@[simp] theorem State.complete_readData (s : State) (code : ResultCode) :
    (s.complete code).readData = s.readData := rfl

@[simp] theorem State.start_regs (s : State) (op : Byte) :
    (s.start op).regs = s.regs.started := rfl
@[simp] theorem State.start_mem (s : State) (op : Byte) :
    (s.start op).mem = s.mem := rfl
@[simp] theorem State.start_pendingOp (s : State) (op : Byte) :
    (s.start op).pendingOp = op := rfl
@[simp] theorem State.start_latency (s : State) (op : Byte) :
    (s.start op).latency = Config.codecLatency s.draws := rfl
@[simp] theorem State.start_draws (s : State) (op : Byte) :
    (s.start op).draws = s.draws + 1 := rfl
@[simp] theorem State.start_host (s : State) (op : Byte) :
    (s.start op).host = s.host := rfl
@[simp] theorem State.start_readData (s : State) (op : Byte) :
    (s.start op).readData = s.readData := rfl

@[simp] theorem State.setRequest_regs (s : State) (cmd plen : Byte) :
    (s.setRequest cmd plen).regs = { s.regs with txCmd := cmd, txPlen := plen } := rfl
@[simp] theorem State.setRequest_mem (s : State) (cmd plen : Byte) :
    (s.setRequest cmd plen).mem = s.mem := rfl
@[simp] theorem State.setRequest_pendingOp (s : State) (cmd plen : Byte) :
    (s.setRequest cmd plen).pendingOp = s.pendingOp := rfl
@[simp] theorem State.setRequest_latency (s : State) (cmd plen : Byte) :
    (s.setRequest cmd plen).latency = s.latency := rfl
@[simp] theorem State.setRequest_draws (s : State) (cmd plen : Byte) :
    (s.setRequest cmd plen).draws = s.draws := rfl
@[simp] theorem State.setRequest_host (s : State) (cmd plen : Byte) :
    (s.setRequest cmd plen).host = s.host := rfl
@[simp] theorem State.setRequest_readData (s : State) (cmd plen : Byte) :
    (s.setRequest cmd plen).readData = s.readData := rfl

@[simp] theorem State.setModePayload_regs (s : State) (mode priority : Byte) :
    (s.setModePayload mode priority).regs = s.regs := rfl
@[simp] theorem State.setModePayload_mem (s : State) (mode priority : Byte) :
    (s.setModePayload mode priority).mem = s.mem.writeRange Buffer.txPayload.base [mode, priority] := rfl
@[simp] theorem State.setModePayload_pendingOp (s : State) (mode priority : Byte) :
    (s.setModePayload mode priority).pendingOp = s.pendingOp := rfl
@[simp] theorem State.setModePayload_latency (s : State) (mode priority : Byte) :
    (s.setModePayload mode priority).latency = s.latency := rfl
@[simp] theorem State.setModePayload_draws (s : State) (mode priority : Byte) :
    (s.setModePayload mode priority).draws = s.draws := rfl
@[simp] theorem State.setModePayload_host (s : State) (mode priority : Byte) :
    (s.setModePayload mode priority).host = s.host := rfl
@[simp] theorem State.setModePayload_readData (s : State) (mode priority : Byte) :
    (s.setModePayload mode priority).readData = s.readData := rfl

@[simp] theorem State.storeRequest_regs (s : State) (frame : List Byte) :
    (s.storeRequest frame).regs = { s.regs with txFlen := BitVec.ofNat 9 frame.length, ack := false, busy := false, done := true, result := .ok } := rfl
@[simp] theorem State.storeRequest_mem (s : State) (frame : List Byte) :
    (s.storeRequest frame).mem = s.mem.writeRange Buffer.txFrame.base frame := rfl
@[simp] theorem State.storeRequest_pendingOp (s : State) (frame : List Byte) :
    (s.storeRequest frame).pendingOp = s.pendingOp := rfl
@[simp] theorem State.storeRequest_latency (s : State) (frame : List Byte) :
    (s.storeRequest frame).latency = s.latency := rfl
@[simp] theorem State.storeRequest_draws (s : State) (frame : List Byte) :
    (s.storeRequest frame).draws = s.draws := rfl
@[simp] theorem State.storeRequest_host (s : State) (frame : List Byte) :
    (s.storeRequest frame).host = s.host := rfl
@[simp] theorem State.storeRequest_readData (s : State) (frame : List Byte) :
    (s.storeRequest frame).readData = s.readData := rfl

@[simp] theorem State.refuseRequest_regs (s : State) :
    (s.refuseRequest).regs = { s.regs with txFlen := 0, ack := false, busy := false, done := true, result := .payloadTooLong } := rfl
@[simp] theorem State.refuseRequest_mem (s : State) :
    (s.refuseRequest).mem = s.mem := rfl
@[simp] theorem State.refuseRequest_pendingOp (s : State) :
    (s.refuseRequest).pendingOp = s.pendingOp := rfl
@[simp] theorem State.refuseRequest_latency (s : State) :
    (s.refuseRequest).latency = s.latency := rfl
@[simp] theorem State.refuseRequest_draws (s : State) :
    (s.refuseRequest).draws = s.draws := rfl
@[simp] theorem State.refuseRequest_host (s : State) :
    (s.refuseRequest).host = s.host := rfl
@[simp] theorem State.refuseRequest_readData (s : State) :
    (s.refuseRequest).readData = s.readData := rfl

@[simp] theorem State.acceptResponse_regs (s : State) (c : Byte) (p : List Byte) :
    (s.acceptResponse c p).regs = { s.regs with rxCmd := c, rxPlen := BitVec.ofNat 8 p.length, ack := true, recValid := false, busy := false, done := true, result := .ok } := rfl
@[simp] theorem State.acceptResponse_mem (s : State) (c : Byte) (p : List Byte) :
    (s.acceptResponse c p).mem = s.mem.writeRange Buffer.rxPayload.base p := rfl
@[simp] theorem State.acceptResponse_pendingOp (s : State) (c : Byte) (p : List Byte) :
    (s.acceptResponse c p).pendingOp = s.pendingOp := rfl
@[simp] theorem State.acceptResponse_latency (s : State) (c : Byte) (p : List Byte) :
    (s.acceptResponse c p).latency = s.latency := rfl
@[simp] theorem State.acceptResponse_draws (s : State) (c : Byte) (p : List Byte) :
    (s.acceptResponse c p).draws = s.draws := rfl
@[simp] theorem State.acceptResponse_host (s : State) (c : Byte) (p : List Byte) :
    (s.acceptResponse c p).host = s.host := rfl
@[simp] theorem State.acceptResponse_readData (s : State) (c : Byte) (p : List Byte) :
    (s.acceptResponse c p).readData = s.readData := rfl

@[simp] theorem State.rejectResponse_regs (s : State) (e : FrameError) :
    (s.rejectResponse e).regs = { s.regs with rxCmd := 0, rxPlen := 0, ack := false, recValid := false, busy := false, done := true, result := e.result } := rfl
@[simp] theorem State.rejectResponse_mem (s : State) (e : FrameError) :
    (s.rejectResponse e).mem = s.mem.writeRange Buffer.rxPayload.base (freeBytes s.draws Buffer.rxPayload.size) := by
  simp only [State.rejectResponse, State.complete]
@[simp] theorem State.rejectResponse_pendingOp (s : State) (e : FrameError) :
    (s.rejectResponse e).pendingOp = s.pendingOp := rfl
@[simp] theorem State.rejectResponse_latency (s : State) (e : FrameError) :
    (s.rejectResponse e).latency = s.latency := rfl
@[simp] theorem State.rejectResponse_draws (s : State) (e : FrameError) :
    (s.rejectResponse e).draws = s.draws + Buffer.rxPayload.size := rfl
@[simp] theorem State.rejectResponse_host (s : State) (e : FrameError) :
    (s.rejectResponse e).host = s.host := rfl
@[simp] theorem State.rejectResponse_readData (s : State) (e : FrameError) :
    (s.rejectResponse e).readData = s.readData := rfl

@[simp] theorem State.storeRecord_regs (s : State) :
    (s.storeRecord).regs = { s.regs with record := StatusRecord.ofPayload s.rxPayloadByte, recValid := true, busy := false, done := true, result := .ok } := rfl
@[simp] theorem State.storeRecord_mem (s : State) :
    (s.storeRecord).mem = s.mem := rfl
@[simp] theorem State.storeRecord_pendingOp (s : State) :
    (s.storeRecord).pendingOp = s.pendingOp := rfl
@[simp] theorem State.storeRecord_latency (s : State) :
    (s.storeRecord).latency = s.latency := rfl
@[simp] theorem State.storeRecord_draws (s : State) :
    (s.storeRecord).draws = s.draws := rfl
@[simp] theorem State.storeRecord_host (s : State) :
    (s.storeRecord).host = s.host := rfl
@[simp] theorem State.storeRecord_readData (s : State) :
    (s.storeRecord).readData = s.readData := rfl

@[simp] theorem State.refuseRecord_regs (s : State) (code : ResultCode) :
    (s.refuseRecord code).regs = { s.regs with recValid := false, busy := false, done := true, result := code } := rfl
@[simp] theorem State.refuseRecord_mem (s : State) (code : ResultCode) :
    (s.refuseRecord code).mem = s.mem := rfl
@[simp] theorem State.refuseRecord_pendingOp (s : State) (code : ResultCode) :
    (s.refuseRecord code).pendingOp = s.pendingOp := rfl
@[simp] theorem State.refuseRecord_latency (s : State) (code : ResultCode) :
    (s.refuseRecord code).latency = s.latency := rfl
@[simp] theorem State.refuseRecord_draws (s : State) (code : ResultCode) :
    (s.refuseRecord code).draws = s.draws := rfl
@[simp] theorem State.refuseRecord_host (s : State) (code : ResultCode) :
    (s.refuseRecord code).host = s.host := rfl
@[simp] theorem State.refuseRecord_readData (s : State) (code : ResultCode) :
    (s.refuseRecord code).readData = s.readData := rfl

@[simp] theorem State.softReset_regs (s : State) :
    (s.softReset).regs = { Regs.reset with done := true } := rfl
@[simp] theorem State.softReset_mem (s : State) :
    (s.softReset).mem = s.mem := rfl
@[simp] theorem State.softReset_pendingOp (s : State) :
    (s.softReset).pendingOp = s.pendingOp := rfl
@[simp] theorem State.softReset_latency (s : State) :
    (s.softReset).latency = s.latency := rfl
@[simp] theorem State.softReset_draws (s : State) :
    (s.softReset).draws = s.draws := rfl
@[simp] theorem State.softReset_host (s : State) :
    (s.softReset).host = s.host := rfl
@[simp] theorem State.softReset_readData (s : State) :
    (s.softReset).readData = s.readData := rfl

@[simp] theorem State.hardReset_regs (s : State) :
    (s.hardReset).regs = Regs.reset := rfl
@[simp] theorem State.hardReset_mem (s : State) :
    (s.hardReset).mem = [] := rfl
@[simp] theorem State.hardReset_pendingOp (s : State) :
    (s.hardReset).pendingOp = Config.freeByte s.draws := rfl
@[simp] theorem State.hardReset_latency (s : State) :
    (s.hardReset).latency = 0 := rfl
@[simp] theorem State.hardReset_draws (s : State) :
    (s.hardReset).draws = s.draws + 1 := rfl
@[simp] theorem State.hardReset_host (s : State) :
    (s.hardReset).host = s.host := rfl
@[simp] theorem State.hardReset_readData (s : State) :
    (s.hardReset).readData = s.readData := rfl

/-- A passing step changes the latency alone. -/
theorem State.tick_eq (s : State) : s.tick = { s with latency := s.tick.latency } := by
  unfold State.tick; split <;> rfl

@[simp] theorem State.tick_regs (s : State) : s.tick.regs = s.regs := by rw [State.tick_eq]
@[simp] theorem State.tick_mem (s : State) : s.tick.mem = s.mem := by rw [State.tick_eq]
@[simp] theorem State.tick_pendingOp (s : State) : s.tick.pendingOp = s.pendingOp := by rw [State.tick_eq]
@[simp] theorem State.tick_draws (s : State) : s.tick.draws = s.draws := by rw [State.tick_eq]
@[simp] theorem State.tick_host (s : State) : s.tick.host = s.host := by rw [State.tick_eq]
@[simp] theorem State.tick_readData (s : State) : s.tick.readData = s.readData := by rw [State.tick_eq]

theorem State.tick_idle (s : State) (h : s.regs.busy = false) : s.tick = s := by simp [State.tick, h]

theorem State.tick_busy (s : State) (h : s.regs.busy = true) : s.tick = { s with latency := s.latency - 1 } := by
  simp [State.tick, h]

@[simp] theorem State.issue_regs (i : Instr) (s : State) : (State.issue i s).regs = (s.regs.withArgs i).started := rfl
@[simp] theorem State.issue_mem (i : Instr) (s : State) : (State.issue i s).mem = s.mem := rfl
@[simp] theorem State.issue_pendingOp (i : Instr) (s : State) : (State.issue i s).pendingOp = i.opCode := rfl
@[simp] theorem State.issue_latency (i : Instr) (s : State) : (State.issue i s).latency = 0 := rfl
@[simp] theorem State.issue_draws (i : Instr) (s : State) : (State.issue i s).draws = s.draws := rfl
@[simp] theorem State.issue_host (i : Instr) (s : State) : (State.issue i s).host = s.host := rfl
@[simp] theorem State.issue_readData (i : Instr) (s : State) : (State.issue i s).readData = s.readData := rfl

@[simp] theorem Regs.started_busy (r : Regs) : (r.started).busy = true := rfl
@[simp] theorem Regs.started_done (r : Regs) : (r.started).done = false := rfl
@[simp] theorem Regs.started_ack (r : Regs) : (r.started).ack = r.ack := rfl
@[simp] theorem Regs.started_recValid (r : Regs) : (r.started).recValid = r.recValid := rfl
@[simp] theorem Regs.started_result (r : Regs) : (r.started).result = r.result := rfl
@[simp] theorem Regs.started_txCmd (r : Regs) : (r.started).txCmd = r.txCmd := rfl
@[simp] theorem Regs.started_txPlen (r : Regs) : (r.started).txPlen = r.txPlen := rfl
@[simp] theorem Regs.started_modeArg (r : Regs) : (r.started).modeArg = r.modeArg := rfl
@[simp] theorem Regs.started_prioArg (r : Regs) : (r.started).prioArg = r.prioArg := rfl
@[simp] theorem Regs.started_txFlen (r : Regs) : (r.started).txFlen = r.txFlen := rfl
@[simp] theorem Regs.started_rxFlen (r : Regs) : (r.started).rxFlen = r.rxFlen := rfl
@[simp] theorem Regs.started_rxCmd (r : Regs) : (r.started).rxCmd = r.rxCmd := rfl
@[simp] theorem Regs.started_rxPlen (r : Regs) : (r.started).rxPlen = r.rxPlen := rfl
@[simp] theorem Regs.started_record (r : Regs) : (r.started).record = r.record := rfl

@[simp] theorem Regs.completed_busy (r : Regs) (code : ResultCode) : (r.completed code).busy = false := rfl
@[simp] theorem Regs.completed_done (r : Regs) (code : ResultCode) : (r.completed code).done = true := rfl
@[simp] theorem Regs.completed_ack (r : Regs) (code : ResultCode) : (r.completed code).ack = r.ack := rfl
@[simp] theorem Regs.completed_recValid (r : Regs) (code : ResultCode) : (r.completed code).recValid = r.recValid := rfl
@[simp] theorem Regs.completed_result (r : Regs) (code : ResultCode) : (r.completed code).result = code := rfl
@[simp] theorem Regs.completed_txCmd (r : Regs) (code : ResultCode) : (r.completed code).txCmd = r.txCmd := rfl
@[simp] theorem Regs.completed_txPlen (r : Regs) (code : ResultCode) : (r.completed code).txPlen = r.txPlen := rfl
@[simp] theorem Regs.completed_modeArg (r : Regs) (code : ResultCode) : (r.completed code).modeArg = r.modeArg := rfl
@[simp] theorem Regs.completed_prioArg (r : Regs) (code : ResultCode) : (r.completed code).prioArg = r.prioArg := rfl
@[simp] theorem Regs.completed_txFlen (r : Regs) (code : ResultCode) : (r.completed code).txFlen = r.txFlen := rfl
@[simp] theorem Regs.completed_rxFlen (r : Regs) (code : ResultCode) : (r.completed code).rxFlen = r.rxFlen := rfl
@[simp] theorem Regs.completed_rxCmd (r : Regs) (code : ResultCode) : (r.completed code).rxCmd = r.rxCmd := rfl
@[simp] theorem Regs.completed_rxPlen (r : Regs) (code : ResultCode) : (r.completed code).rxPlen = r.rxPlen := rfl
@[simp] theorem Regs.completed_record (r : Regs) (code : ResultCode) : (r.completed code).record = r.record := rfl

@[simp] theorem Regs.decoded_busy (r : Regs) (accepted : Bool) : (r.decoded accepted).busy = r.busy := rfl
@[simp] theorem Regs.decoded_done (r : Regs) (accepted : Bool) : (r.decoded accepted).done = r.done := rfl
@[simp] theorem Regs.decoded_ack (r : Regs) (accepted : Bool) : (r.decoded accepted).ack = accepted := rfl
@[simp] theorem Regs.decoded_recValid (r : Regs) (accepted : Bool) : (r.decoded accepted).recValid = false := rfl
@[simp] theorem Regs.decoded_result (r : Regs) (accepted : Bool) : (r.decoded accepted).result = r.result := rfl
@[simp] theorem Regs.decoded_txCmd (r : Regs) (accepted : Bool) : (r.decoded accepted).txCmd = r.txCmd := rfl
@[simp] theorem Regs.decoded_txPlen (r : Regs) (accepted : Bool) : (r.decoded accepted).txPlen = r.txPlen := rfl
@[simp] theorem Regs.decoded_modeArg (r : Regs) (accepted : Bool) : (r.decoded accepted).modeArg = r.modeArg := rfl
@[simp] theorem Regs.decoded_prioArg (r : Regs) (accepted : Bool) : (r.decoded accepted).prioArg = r.prioArg := rfl
@[simp] theorem Regs.decoded_txFlen (r : Regs) (accepted : Bool) : (r.decoded accepted).txFlen = r.txFlen := rfl
@[simp] theorem Regs.decoded_rxFlen (r : Regs) (accepted : Bool) : (r.decoded accepted).rxFlen = r.rxFlen := rfl
@[simp] theorem Regs.decoded_rxCmd (r : Regs) (accepted : Bool) : (r.decoded accepted).rxCmd = r.rxCmd := rfl
@[simp] theorem Regs.decoded_rxPlen (r : Regs) (accepted : Bool) : (r.decoded accepted).rxPlen = r.rxPlen := rfl
@[simp] theorem Regs.decoded_record (r : Regs) (accepted : Bool) : (r.decoded accepted).record = r.record := rfl

end Sys2Proof.Machine
end

