-- ==== Sys2Proof/Laws/Bus.lean ====
section
/-! SUPPORT. What a step does, by whose turn it is, and what each move of the host does. -/

namespace Sys2Proof.Machine

theorem step_codec {s : State} (hb : s.regs.busy = true) (hl : s.latency = 0) :
    step s = exec (decodeCtrl s.pendingOp) s := by
  simp [step, State.codecTurn, State.fetch, hb, hl]

theorem step_host_idle {s : State} (hb : s.regs.busy = false) : step s = s.hostTurn := by
  simp [step, State.codecTurn, hb]

theorem step_host_waiting {s : State} (hl : 0 < s.latency) : step s = s.hostTurn := by
  simp [step, State.codecTurn, Nat.pos_iff_ne_zero.mp hl]

/-- A step is the codec's completion or the host's move. -/
theorem step_cases (s : State) :
    (s.regs.busy = true ∧ s.latency = 0 ∧ step s = exec (decodeCtrl s.pendingOp) s) ∨
    ((s.regs.busy = false ∨ 0 < s.latency) ∧ step s = s.hostTurn) := by
  by_cases hb : s.regs.busy = true
  · rcases Nat.eq_zero_or_pos s.latency with hl | hl
    · exact .inl ⟨hb, hl, step_codec hb hl⟩
    · exact .inr ⟨.inr hl, step_host_waiting hl⟩
  · have hb : s.regs.busy = false := by simpa using hb
    exact .inr ⟨.inl hb, step_host_idle hb⟩

/-- A host read of an idle block (spec/20 R65). -/
theorem step_read {s : State} {off : Offset} {v : Byte} {rest : List HostMove} (hb : s.regs.busy = false)
    (hh : s.host = .read off :: rest) (hv : s.windowRead off = some v) :
    step s = .next { s with host := rest, readData := v } := by
  have hv' : ({ s with host := rest } : State).windowRead off = some v := hv
  rw [step_host_idle hb]
  simp [State.hostTurn, hh, State.readMove, hb, hv', State.tick]

/-- A host write of an idle block. -/
theorem step_write {s : State} {off : Offset} {v : Byte} {rest : List HostMove} (hb : s.regs.busy = false)
    (hh : s.host = .write off v :: rest) : step s = .next (({ s with host := rest } : State).windowWrite off v) := by
  rw [step_host_idle hb]
  simp [State.hostTurn, hh, State.writeMove, hb]

/-- Everything a next state of a read move can be: only the byte returned and the latency differ. -/
theorem State.readMove_next {s t : State} {off : Offset} (h : s.readMove off = .next t) :
    (s.regs.busy = false ∨ off = statusOffset) ∧
      ∃ v, s.windowRead off = some v ∧ t = { s with readData := v, latency := s.tick.latency } := by
  unfold State.readMove at h
  split at h
  · cases h
  · rename_i hb
    split at h
    · rename_i v hv
      cases h
      refine ⟨?_, v, hv, ?_⟩
      · by_cases hbusy : s.regs.busy = true
        · exact .inr (by simpa [hbusy] using hb)
        · exact .inl (by simpa using hbusy)
      · unfold State.tick
        cases hbusy : s.regs.busy <;> simp
    · cases h

/-- Everything a next state of a write move can be. -/
theorem State.writeMove_next {s t : State} {off : Offset} {v : Byte} (h : s.writeMove off v = .next t) :
    s.regs.busy = false ∧ t = s.windowWrite off v := by
  unfold State.writeMove at h
  split at h
  · cases h
  · rename_i hb
    cases h
    exact ⟨by simpa using hb, rfl⟩

/-- A write of the window changes the registers by a register write, or the buffers by one byte of a writable buffer,
or starts an operation, or nothing (spec/20 R61, R65, R66). -/
theorem State.windowWrite_cases (s : State) (off : Offset) (v : Byte) :
    (locate off = .reg .ctrl ∧ s.windowWrite off v = s.start v) ∨
    (∃ r, locate off = .reg r ∧ r ≠ .ctrl ∧ s.windowWrite off v = { s with regs := s.regs.writeReg r v }) ∨
    (∃ b k, locate off = .buffer b k ∧ (b = .txPayload ∨ b = .rxFrame) ∧
      s.windowWrite off v = { s with mem := s.mem.write (b.addr k) v }) ∨
    s.windowWrite off v = s := by
  unfold State.windowWrite
  split
  · rename_i h
    exact .inl ⟨h, rfl⟩
  · rename_i r hr h
    exact .inr (.inl ⟨r, h, by simpa using hr, rfl⟩)
  · rename_i k h
    exact .inr (.inr (.inl ⟨_, k, h, .inl rfl, rfl⟩))
  · rename_i k h
    exact .inr (.inr (.inl ⟨_, k, h, .inr rfl, rfl⟩))
  all_goals exact .inr (.inr (.inr rfl))

/-- A buffer location lies inside its buffer, at the offset itself (spec/20 R61). -/
theorem locate_buffer {off : Offset} {b : Buffer} {k : Nat} (h : locate off = .buffer b k) :
    k < b.size ∧ b.addr k = off.toNat := by
  unfold locate at h
  simp only at h
  repeat' split at h
  all_goals cases h
  all_goals
    simp only [Buffer.addr, Buffer.base, Buffer.size]
    omega

/-! The register offsets of spec/10 R22, one by one, and the offset of a buffer byte. -/

@[simp] theorem locate_ctrl : locate 0#11 = .reg .ctrl := by decide
@[simp] theorem locate_status : locate 1#11 = .reg .status := by decide
@[simp] theorem locate_txCmd : locate 2#11 = .reg .txCmd := by decide
@[simp] theorem locate_txPlen : locate 3#11 = .reg .txPlen := by decide
@[simp] theorem locate_modeArg : locate 4#11 = .reg .modeArg := by decide
@[simp] theorem locate_prioArg : locate 5#11 = .reg .prioArg := by decide
@[simp] theorem locate_txFlenLo : locate 6#11 = .reg .txFlenLo := by decide
@[simp] theorem locate_txFlenHi : locate 7#11 = .reg .txFlenHi := by decide
@[simp] theorem locate_rxFlenLo : locate 8#11 = .reg .rxFlenLo := by decide
@[simp] theorem locate_rxFlenHi : locate 9#11 = .reg .rxFlenHi := by decide
@[simp] theorem locate_rxCmd : locate 10#11 = .reg .rxCmd := by decide
@[simp] theorem locate_rxPlen : locate 11#11 = .reg .rxPlen := by decide

/-- Only offset 0 is CTRL's (spec/10 R23). -/
theorem locate_eq_ctrl (off : Offset) : locate off = .reg .ctrl ↔ off = ctrlOffset := by
  revert off
  decide +kernel

/-- A host write of a register byte leaves STATUS, TX_FLEN, RX_CMD, RX_PLEN and the record alone (spec/20 R66). -/
theorem Regs.writeReg_readOnly (r : Regs) (reg : Reg) (v : Byte) :
    (r.writeReg reg v).busy = r.busy ∧ (r.writeReg reg v).done = r.done ∧ (r.writeReg reg v).ack = r.ack ∧
    (r.writeReg reg v).recValid = r.recValid ∧ (r.writeReg reg v).result = r.result ∧
    (r.writeReg reg v).txFlen = r.txFlen ∧ (r.writeReg reg v).rxCmd = r.rxCmd ∧
    (r.writeReg reg v).rxPlen = r.rxPlen ∧ (r.writeReg reg v).record = r.record := by
  cases reg <;> simp [Regs.writeReg, Regs.writeRxFlenLo, Regs.writeRxFlenHi]

/-- Everything a write move can do to the registers, the buffers and the latch: start an operation at CTRL; elsewhere
nothing, one register byte, or one byte of a writable buffer. -/
theorem State.writeMove_cases {s t : State} {off : Offset} {v : Byte} (h : s.writeMove off v = .next t) :
    s.regs.busy = false ∧
    ((off = ctrlOffset ∧ t = s.start v) ∨
     (off ≠ ctrlOffset ∧ t.pendingOp = s.pendingOp ∧
       ((t.mem = s.mem ∧ (t.regs = s.regs ∨ ∃ reg, t.regs = s.regs.writeReg reg v)) ∨
        (t.regs = s.regs ∧ ∃ (b : Buffer) (k : Nat), k < b.size ∧ (b = .txPayload ∨ b = .rxFrame) ∧
          t.mem = s.mem.write (b.addr k) v)))) := by
  obtain ⟨hb, rfl⟩ := State.writeMove_next h
  refine ⟨hb, ?_⟩
  by_cases ho : off = ctrlOffset
  · exact .inl ⟨ho, by simp [State.windowWrite, (locate_eq_ctrl off).mpr ho]⟩
  · refine .inr ⟨ho, ?_⟩
    rcases State.windowWrite_cases s off v with ⟨hl, _⟩ | ⟨r, _, _, e⟩ | ⟨b, k, hl, hw, e⟩ | e
    · exact absurd ((locate_eq_ctrl off).mp hl) ho
    · rw [e]
      exact ⟨rfl, .inl ⟨rfl, .inr ⟨r, rfl⟩⟩⟩
    · rw [e]
      exact ⟨rfl, .inr ⟨rfl, b, k, (locate_buffer hl).1, hw, rfl⟩⟩
    · rw [e]
      exact ⟨rfl, .inl ⟨rfl, .inl rfl⟩⟩

/-- Everything a step of the outside world can do to the registers, the buffers and the latch: an RST event, the start
of an operation, or neither and at most one register byte or one byte of a writable buffer written. -/
theorem State.hostTurn_cases {s t : State} (h : s.hostTurn = .next t) :
    (s.resets ∧ ∃ rest, t = ({ s with host := rest }).hardReset) ∨
    (s.writesCtrl ∧ ¬s.resets ∧ s.regs.busy = false ∧ ∃ rest v, t = ({ s with host := rest }).start v) ∨
    (¬s.resets ∧ ¬s.writesCtrl ∧ t.pendingOp = s.pendingOp ∧
      ((t.mem = s.mem ∧ (t.regs = s.regs ∨ ∃ reg v, t.regs = s.regs.writeReg reg v)) ∨
       (t.regs = s.regs ∧ ∃ (b : Buffer) (k : Nat) (v : Byte), k < b.size ∧ (b = .txPayload ∨ b = .rxFrame) ∧
         t.mem = s.mem.write (b.addr k) v))) := by
  unfold State.hostTurn at h
  split at h
  · rename_i hh
    cases h
    exact .inr (.inr (by simp [State.resets, State.writesCtrl, hh]))
  · rename_i hh
    cases h
    exact .inr (.inr (by simp [State.resets, State.writesCtrl, hh]))
  · rename_i rest hh
    cases h
    exact .inl ⟨⟨rest, hh⟩, rest, rfl⟩
  · rename_i hh
    obtain ⟨_, v, _, rfl⟩ := State.readMove_next h
    exact .inr (.inr (by simp [State.resets, State.writesCtrl, hh]))
  · rename_i off v rest hh
    obtain ⟨hb, ⟨rfl, rfl⟩ | ⟨ho, hp, ⟨hm, hr | ⟨reg, hr⟩⟩ | ⟨hr, b, k, hk⟩⟩⟩ := State.writeMove_cases h
    · exact .inr (.inl ⟨.inl ⟨v, rest, hh⟩, by simp [State.resets, hh], hb, rest, v, rfl⟩)
    all_goals refine .inr (.inr ⟨by simp [State.resets, hh], by simpa [State.writesCtrl, hh] using ho, hp, ?_⟩)
    · exact .inl ⟨hm, .inl hr⟩
    · exact .inl ⟨hm, .inr ⟨reg, v, hr⟩⟩
    · exact .inr ⟨hr, b, k, v, hk⟩
  · rename_i off rest hh
    obtain ⟨hb, ⟨rfl, rfl⟩ | ⟨ho, hp, ⟨hm, hr | ⟨reg, hr⟩⟩ | ⟨hr, b, k, hk⟩⟩⟩ := State.writeMove_cases h
    · exact .inr (.inl ⟨.inr ⟨rest, hh⟩, by simp [State.resets, hh], hb, rest, _, rfl⟩)
    all_goals refine .inr (.inr ⟨by simp [State.resets, hh], by simpa [State.writesCtrl, hh] using ho, hp, ?_⟩)
    · exact .inl ⟨hm, .inl hr⟩
    · exact .inl ⟨hm, .inr ⟨reg, _, hr⟩⟩
    · exact .inr ⟨hr, b, k, _, hk⟩
  · rename_i rest hh
    obtain ⟨_, v, _, rfl⟩ := State.readMove_next h
    refine .inr (.inr ⟨by simp [State.resets, hh], by simp [State.writesCtrl, hh], ?_⟩)
    cases s.regs.busy <;> simp

/-- The offset of byte `k` of a buffer is that byte's (spec/10 R39 to R42). -/
theorem locate_offset (b : Buffer) {k : Nat} (h : k < b.size) : locate (b.offset k) = .buffer b k := by
  have table : (∀ k < 253, locate (Buffer.txPayload.offset k) = .buffer .txPayload k) ∧
      (∀ k < 258, locate (Buffer.txFrame.offset k) = .buffer .txFrame k) ∧
      (∀ k < 258, locate (Buffer.rxFrame.offset k) = .buffer .rxFrame k) ∧
      (∀ k < 253, locate (Buffer.rxPayload.offset k) = .buffer .rxPayload k) := by decide +kernel
  cases b
  · exact table.1 k h
  · exact table.2.1 k h
  · exact table.2.2.1 k h
  · exact table.2.2.2 k h

end Sys2Proof.Machine
end

