-- ==== Sys2Proof/Laws/Frame.lean ====
section
/-! SUPPORT. Laws of the frame functions: lengths, byte by byte views, sums. -/

namespace Sys2Proof.Machine

@[simp] theorem untransform_transform (b : Byte) (i : Nat) : untransform (transform b i) i = b := by
  simp [transform, untransform]

@[simp] theorem length_transformFrom (i : Nat) (bs : List Byte) : (transformFrom i bs).length = bs.length := by
  induction bs generalizing i with
  | nil => rfl
  | cons b bs ih => simp [transformFrom, ih]

@[simp] theorem length_untransformFrom (i : Nat) (ws : List Byte) : (untransformFrom i ws).length = ws.length := by
  induction ws generalizing i with
  | nil => rfl
  | cons w ws ih => simp [untransformFrom, ih]

theorem getElem?_untransformFrom (i : Nat) (ws : List Byte) (k : Nat) :
    (untransformFrom i ws)[k]? = ws[k]?.map (fun w => untransform w (i + k)) := by
  induction ws generalizing i k with
  | nil => simp [untransformFrom]
  | cons w ws ih =>
    cases k with
    | zero => simp [untransformFrom]
    | succ k => simp only [untransformFrom, List.getElem?_cons_succ, ih]; rw [show i + 1 + k = i + (k + 1) by omega]

@[simp] theorem untransformFrom_transformFrom (i : Nat) (bs : List Byte) :
    untransformFrom i (transformFrom i bs) = bs := by
  induction bs generalizing i with
  | nil => rfl
  | cons b bs ih => simp [transformFrom, untransformFrom, ih]

@[simp] theorem length_encodeFrame (c : Byte) (p : List Byte) : (encodeFrame c p).length = p.length + 5 := by
  simp [encodeFrame]

theorem sum8_append (s t : List Byte) : sum8 (s ++ t) = sum8 s + sum8 t := by
  induction s with
  | nil => simp [sum8]
  | cons b s ih => simp [sum8, ih, BitVec.add_assoc]

theorem lengthByte_toNat (p : List Byte) (h : p.length ≤ 253) : (lengthByte p).toNat = p.length + 2 := by
  simp only [lengthByte, BitVec.toNat_ofNat]
  omega

/-- A frame check that accepts returns as many payload bytes as LENGTH says, less two. -/
theorem checkBody_accepted_length {len : Byte} {rest : List Byte} {c : Byte} {p : List Byte}
    (hr : rest.length = len.toNat) (h : checkBody len rest = .accepted c p) : p.length = len.toNat - 2 := by
  unfold checkBody at h
  simp only at h
  split at h
  · cases h
  · injection h with _ hp
    subst hp
    simp [hr]

/-- What a frame check that accepts says of the buffer (spec/40 R117). -/
theorem decodeFrame_accepted {n : Nat} {f : List Byte} {c : Byte} {p : List Byte}
    (h : decodeFrame n f = .accepted c p) :
    5 ≤ n ∧ ∃ len rest, f = headerByte :: headerByte :: len :: rest ∧ n = 3 + len.toNat ∧
      checkBody len rest = .accepted c p := by
  unfold decodeFrame at h
  split at h
  · cases h
  · rename_i hn
    refine ⟨by omega, ?_⟩
    split at h
    · rename_i h0 h1 len rest
      split at h
      · cases h
      · rename_i hh
        split at h
        · cases h
        · rename_i hl
          simp only [not_or, not_not] at hh hl
          exact ⟨len, rest, by rw [hh.1, hh.2], hl, h⟩
    · cases h

end Sys2Proof.Machine
end

