-- ==== Sys2Proof/Laws/Ops.lean ====
section
/-! SUPPORT. Everything a shared operation can do, said once: proofs cite these instead of unfolding the operation. -/

namespace Sys2Proof.Machine

@[simp] theorem length_freeBytes (d n : Nat) : (freeBytes d n).length = n := by
  induction n generalizing d with
  | zero => rfl
  | succ n ih => simp [freeBytes, ih]

theorem State.txPayloadOperand_eq_some (s : State) (p : List Byte) :
    s.txPayloadOperand = some p ↔
      p.length = s.regs.txPlen.toNat ∧ ∀ k < s.regs.txPlen.toNat, s.mem.read (Buffer.txPayload.addr k) = p[k]? :=
  Memory.readRange_eq_some _ _ _ _

theorem State.rxFrameOperand_eq_some (s : State) (f : List Byte) :
    s.rxFrameOperand = some f ↔
      f.length = s.regs.rxHeld ∧ ∀ k < s.regs.rxHeld, s.mem.read (Buffer.rxFrame.addr k) = f[k]? :=
  Memory.readRange_eq_some _ _ _ _

theorem State.statusReadable_iff (s : State) :
    s.statusReadable = true ↔
      ∀ k ∈ statusOffsets, (s.mem.read (Buffer.rxPayload.addr k)).isSome = true := by
  simp [State.statusReadable, List.all_eq_true]

/-- ENCODE of a payload that fits and has values. -/
theorem State.performEncode_of_operand (s : State) (p : List Byte) (h : s.regs.txPlen.toNat ≤ 253)
    (hp : s.txPayloadOperand = some p) : s.performEncode = .next (s.storeRequest (encodeFrame s.regs.txCmd p)) := by
  simp [State.performEncode, hp, Nat.not_lt.mpr h]

/-- Everything a next state of ENCODE can be. -/
theorem State.performEncode_next {s t : State} (h : s.performEncode = .next t) :
    (253 < s.regs.txPlen.toNat ∧ t = s.refuseRequest) ∨
    (s.regs.txPlen.toNat ≤ 253 ∧
      ∃ p, s.txPayloadOperand = some p ∧ t = s.storeRequest (encodeFrame s.regs.txCmd p)) := by
  unfold State.performEncode at h
  split at h
  · rename_i hn
    cases h
    exact .inl ⟨hn, rfl⟩
  · rename_i hn
    split at h
    · rename_i p hp
      cases h
      exact .inr ⟨by omega, p, hp, rfl⟩
    · cases h

/-- Everything a next state of DECODE can be. -/
theorem execDecode_next {s t : State} (h : execDecode s = .next t) :
    ∃ f, s.rxFrameOperand = some f ∧
      ((∃ c p, decodeFrame s.regs.rxFlen.toNat f = .accepted c p ∧ t = s.acceptResponse c p) ∨
       (∃ e, decodeFrame s.regs.rxFlen.toNat f = .rejected e ∧ t = s.rejectResponse e)) := by
  unfold execDecode at h
  split at h
  · cases h
  · rename_i f hf
    refine ⟨f, hf, ?_⟩
    split at h
    · rename_i c p hd
      cases h
      exact .inl ⟨c, p, hd, rfl⟩
    · rename_i e hd
      cases h
      exact .inr ⟨e, hd, rfl⟩

/-- Everything a next state of STATUS_EXTRACT can be. -/
theorem execStatusExtract_next {s t : State} (h : execStatusExtract s = .next t) :
    (s.regs.ack = false ∧ t = s.refuseRecord .noPayload) ∨
    (s.regs.ack = true ∧ s.regs.rxPlen.toNat < 28 ∧ t = s.refuseRecord .tooShortPayload) ∨
    (s.regs.ack = true ∧ 28 ≤ s.regs.rxPlen.toNat ∧ s.statusReadable = true ∧ t = s.storeRecord) := by
  unfold execStatusExtract at h
  split at h
  · rename_i ha
    cases h
    exact .inl ⟨ha, rfl⟩
  · rename_i ha
    have ha : s.regs.ack = true := by simpa using ha
    split at h
    · rename_i hl
      cases h
      exact .inr (.inl ⟨ha, hl, rfl⟩)
    · rename_i hl
      split at h
      · rename_i hr
        cases h
        exact .inr (.inr ⟨ha, by omega, hr, rfl⟩)
      · cases h

/-- A build of a catalog request always answers a next state: its payload has values (spec/41 R141 to R143). -/
theorem State.buildStatusQuery_eq (s : State) :
    s.buildStatusQuery = .next ((s.setRequest cmdGeneralStatus 0).storeRequest (encodeFrame cmdGeneralStatus [])) := rfl

theorem State.buildResetWorkTime_eq (s : State) :
    s.buildResetWorkTime = .next ((s.setRequest cmdResetWorkTime 0).storeRequest (encodeFrame cmdResetWorkTime [])) :=
  rfl

theorem State.buildSetMode_eq (s : State) (mode priority : Byte) :
    s.buildSetMode mode priority = .next
      (((s.setRequest cmdSetMode 2).setModePayload mode priority).storeRequest
        (encodeFrame cmdSetMode [mode, priority])) := by
  refine State.performEncode_of_operand _ _ (by simp) ?_
  rw [State.txPayloadOperand_eq_some]
  refine ⟨rfl, fun k hk => ?_⟩
  simp only [State.setModePayload_mem, Buffer.addr]
  exact Memory.read_writeRange_inside _ _ _ hk

/-- A decoded payload is as long as RX_PLEN can count. -/
theorem decodeFrame_payload_length {s : State} {f : List Byte} {c : Byte} {p : List Byte}
    (hf : s.rxFrameOperand = some f) (h : decodeFrame s.regs.rxFlen.toNat f = .accepted c p) :
    p.length + 5 = s.regs.rxFlen.toNat ∧ p.length ≤ 253 := by
  obtain ⟨hn, len, rest, rfl, hl, hb⟩ := decodeFrame_accepted h
  have hlen := ((State.rxFrameOperand_eq_some _ _).mp hf).1
  have := len.isLt
  simp only [List.length_cons, Regs.rxHeld] at hlen
  rw [if_neg (by omega)] at hlen
  have hp := checkBody_accepted_length (by omega) hb
  omega

end Sys2Proof.Machine
end

