-- ==== Sys2Proof/Laws/PerInstr.lean ====
section
/-! SUPPORT. A law of every instruction as syntax, one lemma per constructor: how long its encoding is. -/

namespace Sys2Proof.Laws.EncodingLength

/-- The bytes an instruction takes: one for a CTRL operation (spec/30 R90), five for a command with an empty payload,
seven for the one with two payload bytes (spec/30 R80, R88). -/
def byteLength : Instr → Nat
  | .nop => 1
  | .encode => 1
  | .decode => 1
  | .encStatusQuery => 1
  | .encResetWorktime => 1
  | .encSetMode => 1
  | .statusExtract => 1
  | .softReset => 1
  | .illegalOp _ => 1
  | .generalStatusQuery => 5
  | .resetWorkTimeCounter => 5
  | .setModeAndPriority _ _ => 7

/-- The encoding has the instruction's length. -/
def Statement (i : Instr) : Prop := (encode i).length = byteLength i

theorem nop : Statement .nop := rfl
theorem encode : Statement .encode := rfl
theorem decode : Statement .decode := rfl
theorem encStatusQuery : Statement .encStatusQuery := rfl
theorem encResetWorktime : Statement .encResetWorktime := rfl
theorem encSetMode : Statement .encSetMode := rfl
theorem statusExtract : Statement .statusExtract := rfl
theorem softReset : Statement .softReset := rfl
theorem illegalOp (code : Byte) : Statement (.illegalOp code) := rfl
theorem generalStatusQuery : Statement .generalStatusQuery := Machine.length_encodeFrame _ _
theorem resetWorkTimeCounter : Statement .resetWorkTimeCounter := Machine.length_encodeFrame _ _
theorem setModeAndPriority (mode priority : Byte) : Statement (.setModeAndPriority mode priority) :=
  Machine.length_encodeFrame _ _

end Sys2Proof.Laws.EncodingLength
end

