-- ==== Sys2Proof/Laws/Run.lean ====
section
/-! SUPPORT. Laws of a run: one step at a time, runs one after the other, and that it is the host's own run. -/

namespace Sys2Proof.Machine

@[simp] theorem State.run_zero (s : State) : s.run 0 = .next s := rfl

theorem State.run_succ_next {s t : State} (k : Nat) (h : step s = .next t) : s.run (k + 1) = t.run k := by
  simp only [State.run, h]

theorem State.run_one (s : State) : s.run 1 = step s := by
  simp only [State.run]
  cases step s <;> rfl

/-- A run that reaches `t` goes on from there. -/
theorem State.run_add {a : Nat} {s t : State} (b : Nat) (h : s.run a = .next t) : s.run (a + b) = t.run b := by
  induction a generalizing s with
  | zero =>
    cases h
    rw [Nat.zero_add]
  | succ a ih =>
    rw [Nat.succ_add_eq_add_succ, Nat.add_succ]
    simp only [State.run] at h ⊢
    cases hs : step s with
    | next u =>
      rw [hs] at h
      exact ih h
    | fault f =>
      rw [hs] at h
      cases h
    | refused r =>
      rw [hs] at h
      cases h

/-- The model's run is the run of the machine behind the host's interface. -/
theorem State.run_eq_core_run (k : Nat) (s : State) : core.run k s = s.run k := by
  induction k generalizing s with
  | zero => rfl
  | succ k ih =>
    cases hs : step s with
    | next t =>
      have hc : core.step s = .next t := hs
      rw [State.run_succ_next k hs, ← ih t]
      simp only [Host.Core.run, hc]
    | fault f =>
      have hc : core.step s = .fault f := hs
      simp only [State.run, hs, Host.Core.run, hc]
      rfl
    | refused r =>
      have hc : core.step s = .refused r := hs
      simp only [State.run, hs, Host.Core.run, hc]
      rfl

end Sys2Proof.Machine
end

