-- ==== Sys2Proof/Laws/Word.lean ====
section
/-! SUPPORT. The two bytes of a 16-bit value (spec/20 R68). -/

namespace Sys2Proof

@[simp] theorem extractLsb'_high_append (x y : Byte) : (x ++ y : BitVec 16).extractLsb' 8 8 = x := by
  apply BitVec.eq_of_getLsbD_eq
  intro i hi
  simp only [BitVec.getLsbD_extractLsb', hi, decide_true, Bool.true_and, BitVec.getLsbD_append]
  rw [if_neg (by omega), Nat.add_sub_cancel_left]

@[simp] theorem extractLsb'_low_append (x y : Byte) : (x ++ y : BitVec 16).extractLsb' 0 8 = y := by
  apply BitVec.eq_of_getLsbD_eq
  intro i hi
  rw [BitVec.getLsbD_extractLsb', BitVec.getLsbD_append]
  simp [hi]

theorem toNat_append_bytes (x y : Byte) : (x ++ y : BitVec 16).toNat = x.toNat * 256 + y.toNat := by
  have := y.isLt
  rw [BitVec.toNat_append, Nat.shiftLeft_eq, Nat.mul_comm, ← Nat.two_pow_add_eq_or_of_lt (by simpa using this)]

end Sys2Proof
end

