-- ==== Sys2Proof/Tests/Slice0.lean ====
section
/-! SUPPORT. Tests: expected results are the vectors of spec/95 and the tables of spec/30 and spec/42, and for each
statement a state and operands that meet its hypotheses, at the boundary values of its clauses. -/

namespace Sys2Proof.Tests

open Sys2Proof.Machine

/-! ### Small states and views of an answer -/

/-- The reset state with registers `r`. -/
def withRegs (r : Regs) : State := { State.reset with regs := r }

/-- A payload in TX_PAYLOAD, with its COMMAND_ID and length. -/
def txState (c : Byte) (p : List Byte) : State :=
  { withRegs { Regs.reset with txCmd := c, txPlen := BitVec.ofNat 8 p.length } with
    mem := Memory.writeRange [] Buffer.txPayload.base p }

/-- Bytes in RX_FRAME, with RX_FLEN = `n`. -/
def rxState (n : Nat) (f : List Byte) : State :=
  { withRegs { Regs.reset with rxFlen := BitVec.ofNat 16 n } with mem := Memory.writeRange [] Buffer.rxFrame.base f }

/-- An acknowledged payload in RX_PAYLOAD. -/
def ackState (p : List Byte) : State :=
  { withRegs { Regs.reset with ack := true, rxPlen := BitVec.ofNat 8 p.length } with
    mem := Memory.writeRange [] Buffer.rxPayload.base p }

/-- MODE_ARG and PRIO_ARG set. -/
def modeState (m p : Byte) : State := withRegs { Regs.reset with modeArg := m, prioArg := p }

/-- An operation running with `n` steps left before its completion. -/
def busyState (op : Byte) (n : Nat) : State :=
  { withRegs { Regs.reset with busy := true } with pendingOp := op, latency := n }

/-- The state about to make the moves `h`. -/
def doing (h : List HostMove) (s : State) : State := { s with host := h }

/-- A property of the next state, false of a stop. -/
def next? (o : StepResult) (q : State → Bool) : Bool :=
  match o with
  | .next t => q t
  | .fault _ => false
  | .refused _ => false

/-- The fault an answer stops with. -/
def fault? (o : StepResult) : Option Fault :=
  match o with
  | .next _ => none
  | .fault f => some f
  | .refused _ => none

/-- The first bytes of a buffer. -/
def bytes (t : State) (b : Buffer) (n : Nat) : Option (List Byte) := t.mem.readRange b.base n

/-- The bytes of TX_FRAME that TX_FLEN counts, with the STATUS byte. -/
def request? (o : StepResult) (f : List Byte) (status : Byte) : Bool :=
  next? o fun t => bytes t .txFrame t.regs.txFlen.toNat == some f && t.regs.statusByte == status

/-- What DECODE left: STATUS, RX_CMD and the bytes of RX_PAYLOAD that RX_PLEN counts. -/
def response? (o : StepResult) (status c : Byte) (p : List Byte) : Bool :=
  next? o fun t => t.regs.statusByte == status && t.regs.rxCmd == c && bytes t .rxPayload t.regs.rxPlen.toNat == some p

/-- A state made to hold bytes holds them, however many there are. -/
theorem txState_holds (c : Byte) (p : List Byte) : (txState c p).holds .txPayload p :=
  fun _ hk => Memory.read_writeRange_inside _ _ _ hk

theorem rxState_holds (n : Nat) (f : List Byte) : (rxState n f).holds .rxFrame f :=
  fun _ hk => Memory.read_writeRange_inside _ _ _ hk

/-- The status payload S1 of spec/95. -/
def payloadS1 : List Byte :=
  [0xAA, 0x42, 0x13, 0x45, 0x09, 0x31, 0x12, 0x24, 0x01, 0x02, 0x00, 0xAA, 0xAA, 0x21, 0xAA, 0xAA, 0x41, 0x3F, 0x30,
   0xAA, 0x50, 0x2E, 0xAA, 0x46, 0x03, 0x80, 0xAA, 0x05]

/-- The response frame of S1. -/
def frameS1 : List Byte :=
  [0x5A, 0x5A, 0x1E, 0x01, 0xAB, 0x44, 0x16, 0x49, 0x0E, 0x37, 0x19, 0x2C, 0x0A, 0x0C, 0x0B, 0xB6, 0xB7, 0x2F, 0xB9,
   0xBA, 0x52, 0x51, 0x43, 0xBE, 0x65, 0x44, 0xC1, 0x5E, 0x1C, 0x9A, 0xC5, 0x21, 0x83]

/-- Frame E7 of spec/95: 253 zeros under COMMAND_ID 0x01. -/
def frameE7 : List Byte :=
  [0x5A, 0x5A, 0xFF, 0x01] ++ (List.range 253).map (fun k => BitVec.ofNat 8 (k + 1)) ++ [0xFD]

/-! ### Well-formedness and decoding -/

theorem test_wf_refuses_assigned_code : ∀ v ∈ assignedCodes, (Instr.illegalOp v).wf = false := by decide

theorem test_wf_accepts : (Instr.illegalOp 0x07).wf = true ∧ (Instr.illegalOp 0x0E).wf = true ∧
    (Instr.illegalOp 0x10).wf = true ∧ (Instr.illegalOp 0xFF).wf = true ∧ Instr.nop.wf = true ∧
    (Instr.setModeAndPriority 0xFF 0xFF).wf = true := by decide

/-- The eight assigned CTRL values bit by bit from spec/30 R90, and both ends of the two unassigned ranges. -/
theorem test_decode_ctrl_words :
    decode [0b00000000] = .instr .nop ∧ decode [0b00000001] = .instr .encode ∧
    decode [0b00000010] = .instr .decode ∧ decode [0b00000011] = .instr .encStatusQuery ∧
    decode [0b00000100] = .instr .encResetWorktime ∧ decode [0b00000101] = .instr .encSetMode ∧
    decode [0b00000110] = .instr .statusExtract ∧ decode [0b00001111] = .instr .softReset ∧
    decode [0b00000111] = .instr (.illegalOp 0x07) ∧ decode [0b00001110] = .instr (.illegalOp 0x0E) ∧
    decode [0b00010000] = .instr (.illegalOp 0x10) ∧ decode [0b11111111] = .instr (.illegalOp 0xFF) := by decide

/-- The three wire commands from spec/30 R88 and spec/95 CV1, CV2, CV3 to CV7. -/
theorem test_decode_wire_words :
    decode [0x5A, 0x5A, 0x02, 0x01, 0xFD] = .instr .generalStatusQuery ∧
    decode [0x5A, 0x5A, 0x02, 0x09, 0xF5] = .instr .resetWorkTimeCounter ∧
    decode [0x5A, 0x5A, 0x04, 0x03, 0x01, 0x02, 0xFB] = .instr (.setModeAndPriority 0x00 0x00) ∧
    decode [0x5A, 0x5A, 0x04, 0x03, 0x03, 0x03, 0xF8] = .instr (.setModeAndPriority 0x02 0x01) ∧
    decode [0x5A, 0x5A, 0x04, 0x03, 0x00, 0x01, 0xFD] = .instr (.setModeAndPriority 0xFF 0xFF) := by decide

/-- No request: an empty sequence, a frame of no catalog command (E1), a catalog command with a payload (E3), set-mode
without one (DV3). -/
theorem test_decode_rejects_by_name :
    decode [] = .rejected .empty ∧
    decode [0x5A, 0x5A, 0x02, 0x07, 0xF7] = .rejected (.unassignedCommand 0x07) ∧
    decode [0x5A, 0x5A, 0x03, 0x01, 0x01, 0xFD] = .rejected (.payloadShape 0x01) ∧
    decode [0x5A, 0x5A, 0x02, 0x03, 0xFB] = .rejected (.payloadShape 0x03) := by decide

/-- Every byte is covered by exactly one CTRL8 row of the opcode table, and that row's instruction is the decoder's. -/
theorem test_ctrl_table_is_the_decoder : ∀ v : Byte,
    (ctrlTable.filter (·.covers v)).map (·.instr v) = [decodeCtrl v] := by decide +kernel

/-- The table's numbering: 8 bits are one CTRL byte; the whole frame of CV4, first byte lowest. -/
theorem test_table_words :
    decodeTableWord 8 0x06 = some .statusExtract ∧ decodeTableWord 8 0x40 = some (.illegalOp 0x40) ∧
    decodeTableWord 56 0xF80402030A5A5A = none ∧
    decodeTableWord 56 0xF8040203045A5A = some (.setModeAndPriority 0x01 0x02) := by decide

/-! ### The frame functions: spec/95 T1 to T9, K1 to K5, B1 to B7 -/

theorem test_transform_vectors :
    [(0x00, 1), (0x7F, 1), (0x00, 2), (0xFF, 2), (0xFF, 3), (0x10, 10), (0x00, 255), (0xFF, 255), (0x80, 129)].map
      (fun x : Byte × Nat => (transform x.1 x.2, untransform x.1 x.2)) =
    [(0x00, 0x00), (0x7F, 0x7F), (0x01, 0xFF), (0x00, 0xFE), (0x01, 0xFD), (0x19, 0x07), (0xFE, 0x02), (0xFD, 0x01),
     (0x00, 0x00)] := by decide

theorem test_checksum_vectors :
    [[0x02, 0x01], [0x02, 0x00], [0x04, 0x03, 0xFF, 0xFF], [0xFF, 0x01] ++ List.replicate 253 0x00,
      [0x03, 0x00, 0x01]].map checksum = [0xFC, 0xFD, 0xFA, 0xFF, 0xFB] := by decide +kernel

theorem test_bcd_vectors :
    [0x00, 0x09, 0x59, 0x99, 0x0A, 0xFF, 0xA0].map bcd = [0, 9, 59, 99, 10, 165, 100] := by decide

theorem test_longest_frame : encodeFrame 0x01 (List.replicate 253 0x00) = frameE7 ∧
    decodeFrame 258 frameE7 = .accepted 0x01 (List.replicate 253 0x00) ∧
    decodeFrame 300 frameE7 = .rejected .lengthMismatch := by decide +kernel

/-! ### The operations: spec/95 E, CV, DV, S and X vectors -/

theorem test_encode : request? (exec .encode (txState 0x10 [0x10, 0x20, 0x30, 0x40]))
    [0x5A, 0x5A, 0x06, 0x10, 0x11, 0x22, 0x33, 0x44, 0x4E] 0x02 = true ∧
    request? (exec .encode (txState 0x22 [0xFF, 0xFE, 0xFD])) [0x5A, 0x5A, 0x05, 0x22, 0x00, 0x00, 0x00, 0xE2] 0x02 =
      true := by decide

theorem test_encode_too_long :
    request? (exec .encode (withRegs { Regs.reset with txPlen := 254, txFlen := 7 })) [] 0x52 = true := by decide

theorem test_fixed_requests :
    request? (exec .encStatusQuery State.reset) [0x5A, 0x5A, 0x02, 0x01, 0xFD] 0x02 = true ∧
    request? (exec .encResetWorktime State.reset) [0x5A, 0x5A, 0x02, 0x09, 0xF5] 0x02 = true ∧
    request? (exec .generalStatusQuery State.reset) [0x5A, 0x5A, 0x02, 0x01, 0xFD] 0x02 = true ∧
    request? (exec .resetWorkTimeCounter State.reset) [0x5A, 0x5A, 0x02, 0x09, 0xF5] 0x02 = true := by decide

/-- P3, line 13: a request keeps REC_VALID. -/
theorem test_reset_worktime_keeps_rec_valid :
    request? (exec .encResetWorktime (withRegs { Regs.reset with recValid := true, ack := true }))
      [0x5A, 0x5A, 0x02, 0x09, 0xF5] 0x0A = true := by decide

theorem test_set_mode :
    request? (exec .encSetMode (modeState 0x01 0x02)) [0x5A, 0x5A, 0x04, 0x03, 0x02, 0x04, 0xF8] 0x02 = true ∧
    request? (exec .encSetMode (modeState 0xFF 0xFF)) [0x5A, 0x5A, 0x04, 0x03, 0x00, 0x01, 0xFD] 0x02 = true ∧
    next? (exec .encSetMode (modeState 0x01 0x02)) (fun t =>
      bytes t .txPayload 2 == some [0x01, 0x02] && t.regs.txCmd == 0x03 && t.regs.txPlen == 2) = true := by decide

theorem test_set_mode_and_priority :
    request? (exec (.setModeAndPriority 0x02 0x01) State.reset) [0x5A, 0x5A, 0x04, 0x03, 0x03, 0x03, 0xF8] 0x02 =
      true := by decide

/-- DV4, DV1 and S1. -/
theorem test_decode_accepts :
    response? (exec .decode (rxState 7 [0x5A, 0x5A, 0x04, 0x03, 0x02, 0x04, 0xF8])) 0x06 0x03 [0x01, 0x02] = true ∧
    response? (exec .decode (rxState 5 [0x5A, 0x5A, 0x02, 0x01, 0xFD])) 0x06 0x01 [] = true ∧
    response? (exec .decode (rxState 33 frameS1)) 0x06 0x01 payloadS1 = true := by decide +kernel

/-- DV7, DV9, DV13, DV16, DV19. -/
theorem test_decode_rejects :
    response? (exec .decode (rxState 0 [])) 0x12 0 [] = true ∧
    response? (exec .decode (rxState 3 [0x5A, 0x5A, 0x00])) 0x12 0 [] = true ∧
    response? (exec .decode (rxState 6 [0x5A, 0x5A, 0x02, 0x01, 0xFD, 0x5A])) 0x22 0 [] = true ∧
    response? (exec .decode (rxState 5 [0x5A, 0x5B, 0x02, 0x01, 0xFC])) 0x12 0 [] = true ∧
    response? (exec .decode (rxState 5 [0x5A, 0x5A, 0x02, 0x01, 0xFC])) 0x32 0 [] = true := by decide +kernel

/-- S1. -/
theorem test_status_extract :
    next? (exec .statusExtract (ackState payloadS1)) (fun t => t.regs.statusByte == 0x0E && t.regs.record.toList ==
      [4, 2, 13, 45, 9, 31, 12, 24, 1, 2, 0, 0x21, 65, 63, 48, 0x50, 0x2E, 0x46, 3, 0x80, 5]) = true := by decide

/-- The corrected example of L1-6, and S2. -/
theorem test_status_extract_masks :
    next? (exec .statusExtract (ackState (((List.replicate 28 0x00).set 8 1).set 9 2 |>.set 21 0b00101110)))
      (fun t => t.regs.record == { StatusRecord.reset with opMode := 1, opState := 2, actuators := 0x2E }) = true ∧
    next? (exec .statusExtract (ackState (List.replicate 28 0xFF))) (fun t => t.regs.record.toList ==
      [15, 15, 165, 165, 165, 165, 165, 165, 255, 255, 255, 0x21, 255, 255, 255, 255, 0x3E, 255, 255, 0x80, 255]) =
      true := by decide

/-- S3 and S4. -/
theorem test_status_extract_refuses :
    next? (exec .statusExtract (ackState (List.replicate 27 0x00))) (·.regs.statusByte == 0x46) = true ∧
    next? (exec .statusExtract State.reset) (·.regs.statusByte == 0x72) = true := by decide

/-- X1, X3. -/
theorem test_nop : next? (exec .nop State.reset) (·.regs.statusByte == 0x02) = true ∧
    next? (exec .nop (withRegs { Regs.reset with ack := true, done := true, result := .illegalOp }))
      (·.regs.statusByte == 0x06) = true := by decide

/-- X2, X5. -/
theorem test_illegal_op : next? (exec (.illegalOp 0xFF) State.reset) (·.regs.statusByte == 0x62) = true ∧
    next? (exec (.illegalOp 0x07) (withRegs { Regs.reset with ack := true, done := true }))
      (·.regs.statusByte == 0x66) = true := by decide

/-- X4. -/
theorem test_soft_reset :
    next? (exec .softReset (ackState [0x01, 0x02])) (fun t => t.regs.statusByte == 0x02 && t.regs.rxPlen == 0 &&
      bytes t .rxPayload 2 == some [0x01, 0x02]) = true := by decide

/-- X6, X8, X9. -/
theorem test_host_faults :
    fault? (step (doing [.read 0x00A] (busyState 0x02 1))) = some .hazard ∧
    fault? (step (doing [.write 0x000 0x01] (busyState 0x02 1))) = some .hazard ∧
    fault? (step (doing [.read 0x200] State.reset)) = some (.unwrittenRead 0x200) := by decide

/-- X7, X10, X11. -/
theorem test_host_accesses :
    next? (step (doing [.read 0x001] (busyState 0x02 1))) (·.readData == 0x01) = true ∧
    next? (step (doing [.read 0x7FF] State.reset)) (·.readData == 0x00) = true ∧
    next? (step (doing [.write 0x001 0xFF] State.reset)) (· == State.reset) = true := by decide

/-- 0x1234 written to RX_FLEN as `setrx` writes it: LO first, one byte a step (spec/30 R95). -/
theorem test_set_rx : hostSetRx 0x1234 = [.write 0x008 0x34, .write 0x009 0x12] ∧
    next? (step (doing [.write 0x009 0x12] (rxState 0x0034 []))) (·.regs.rxFlen == 0x1234) = true := by decide

/-- A word placed for the next step runs as its operation. -/
theorem test_fetch_word :
    next? (step (State.reset.withFetchWord 8 0x0F)) (·.regs.statusByte == 0x02) = true ∧
    next? (step (State.reset.withFetchWord 8 0x99)) (·.regs.statusByte == 0x62) = true ∧
    request? (step (State.reset.withFetchWord 56 0xF8040203045A5A))
      [0x5A, 0x5A, 0x04, 0x03, 0x02, 0x04, 0xF8] 0x02 = true := by decide

/-! ### Witnesses: for each statement with hypotheses, values that meet all of them together -/

theorem test_witness_DecodeOfEncodeIsTheInstruction :
    ∀ i ∈ [Instr.nop, .illegalOp 0x07, .illegalOp 0xFF, .generalStatusQuery, .setModeAndPriority 0x00 0xFF],
      i.wf = true := by decide

theorem test_witness_CtrlCodesAreTheTable : ∀ v ∈ [0x07#8, 0x0E, 0x10, 0xFF],
    (0x07 ≤ v.toNat ∧ v.toNat ≤ 0x0E) ∨ 0x10 ≤ v.toNat := by decide

theorem test_witness_RollingTransformIsAPositionalBijection : ∀ i ∈ [1, 255], 1 ≤ i ∧ i ≤ 255 := by decide

theorem test_witness_EncodedFrameLayout : ∃ p : List Byte, p.length ≤ 253 ∧ 252 < p.length :=
  ⟨List.replicate 253 0, by decide +kernel⟩

theorem test_witness_DecodeFrameOfEncodeFrame : ([] : List Byte).length ≤ 253 ∧
    (List.replicate 253 0xFF#8).length ≤ 253 := by decide +kernel

/-- One changed byte at each place of a frame: header, LENGTH, COMMAND_ID, checksum. -/
theorem test_witness_OneChangedByteIsCaught : ∀ j ∈ [0, 1, 2, 3, 4],
    ∃ f : List Byte, f.length = (encodeFrame 0x01 []).length ∧ j < f.length ∧
      (∀ k < 5, k ≠ j → f[k]? = (encodeFrame 0x01 [])[k]?) ∧ f[j]? ≠ (encodeFrame 0x01 [])[j]? := by
  intro j hj
  refine ⟨(encodeFrame 0x01 []).modify j (· + 1), ?_⟩
  revert j
  decide

theorem test_witness_OneChangedByteIsCaught_two : ([0x01#8, 0x02].length ≤ 253 ∧ 0 + 1 < [0x01#8, 0x02].length) ∧
    (List.replicate 253 0x00#8).length ≤ 253 ∧ 251 + 1 < (List.replicate 253 0x00#8).length := by decide +kernel

theorem test_witness_HeaderCheckIsExact :
    (∀ n ∈ [0, 4, 5, 257, 258, 259, 300], (List.replicate (min n 258) 0x5A#8).length = min n 258) ∧
    (rxState 4 []).regs.rxFlen.toNat < 5 := by decide +kernel

theorem test_witness_LengthCheckIsExact : ∀ n ∈ [5, 258, 300], 5 ≤ n ∧
    (List.replicate (min n 258) 0x5A#8).length = min n 258 ∧ (List.replicate (min n 258) 0x5A#8)[0]? = some 0x5A ∧
    (List.replicate (min n 258) 0x5A#8)[1]? = some 0x5A := by decide +kernel

theorem test_witness_ChecksumCheckIsExact : (2 ≤ (0x02#8).toNat ∧ [0x01#8, 0xFD].length = (0x02#8).toNat) ∧
    2 ≤ (0xFF#8).toNat ∧ (List.replicate 255 0x00#8).length = (0xFF#8).toNat := by decide +kernel

theorem test_witness_OverlongBufferLosesNothing : ∃ (s : State) (whole : List Byte),
    258 < s.regs.rxFlen.toNat ∧ whole.length = s.regs.rxFlen.toNat ∧ s.holds .rxFrame (whole.take 258) :=
  ⟨rxState 259 ((List.replicate 259 0x5A).take 258), List.replicate 259 0x5A, by decide +kernel, by decide +kernel,
    rxState_holds _ _⟩

theorem test_witness_IllegalOpOnlyCompletes : ∀ v ∈ [0x07#8, 0x0E, 0x10, 0xFF],
    (0x07 ≤ v.toNat ∧ v.toNat ≤ 0x0E) ∨ 0x10 ≤ v.toNat := by decide

theorem test_witness_SoftResetClearsRegistersAndKeepsBuffers :
    ([0x000#11, 0x00B, 0x020, 0x034].all fun off => decide (registerOffset off ∧ off ≠ statusOffset)) = true := by
  decide +kernel

theorem test_witness_EncodeBuildsTheFrame : ∀ n ∈ [0, 253], ∃ (s : State) (p : List Byte), p.length = n ∧
    p.length = s.regs.txPlen.toNat ∧ p.length ≤ 253 ∧ s.holds .txPayload p := by
  refine fun n hn => ⟨txState 0x01 (List.replicate n 0xFF), List.replicate n 0xFF, ?_, ?_, ?_, txState_holds _ _⟩
  all_goals
    revert n
    decide +kernel

theorem test_witness_EncodeBuildsTheFrame_too_long : ∀ n ∈ [254#8, 255],
    253 < (withRegs { Regs.reset with txPlen := n }).regs.txPlen.toNat := by decide

theorem test_witness_WireCommandBuildsItsOwnFrame : wireRequest .generalStatusQuery = some (0x01, []) ∧
    wireRequest .resetWorkTimeCounter = some (0x09, []) ∧
    wireRequest (.setModeAndPriority 0xFF 0x00) = some (0x03, [0xFF, 0x00]) := by decide

theorem test_witness_DecodeAcceptsASoundFrame : ∀ f ∈ [[0x5A, 0x5A, 0x02, 0x01, 0xFD], frameS1, frameE7],
    ∃ (s : State) (p : List Byte), f.length = min s.regs.rxFlen.toNat 258 ∧ s.holds .rxFrame f ∧
      decodeFrame s.regs.rxFlen.toNat f = .accepted 0x01 p := by
  refine fun f hf =>
    ⟨rxState f.length f, untransformFrom 2 ((f.drop 4).take (f.length - 5)), ?_, rxState_holds _ _, ?_⟩
  all_goals
    revert f
    decide +kernel

/-- The success clause on a body: frame CV2 after its header, LENGTH and COMMAND_ID 0x09. -/
theorem test_witness_DecodeAcceptsASoundFrame_body : [0x09#8, 0xF5].length = (0x02#8).toNat ∧
    decodeFrame (3 + (0x02#8).toNat) (0x5A :: 0x5A :: 0x02 :: [0x09, 0xF5]) = .accepted 0x09 [] := by decide

/-- A header failure of a short buffer, which needs no byte, then one of each code at five bytes and above. -/
theorem test_witness_DecodeRejectsABadFrame :
    ∀ x ∈ [(4, [], FrameError.malformedHeader), (5, [0x5A, 0x5B, 0x02, 0x01, 0xFC], .malformedHeader),
      (5, [0x5A, 0x5A, 0x03, 0x01, 0xFD], .lengthMismatch), (300, frameE7, .lengthMismatch),
      (5, [0x5A, 0x5A, 0x02, 0x01, 0xFC], .checksumMismatch)],
      ∃ s : State, x.2.1.length = s.regs.rxHeld ∧ s.holds .rxFrame x.2.1 ∧
        decodeFrame s.regs.rxFlen.toNat x.2.1 = .rejected x.2.2 := by
  refine fun x hx => ⟨rxState x.1 x.2.1, ?_, rxState_holds _ _, ?_⟩
  all_goals
    revert x
    decide +kernel

/-- Two states with the same response and different registers, and the DECODE of the first. -/
theorem test_witness_DecodeDependsOnTheResponseAlone : ∃ s s' t : State, s ≠ s' ∧ s'.regs.rxFlen = s.regs.rxFlen ∧
    (∀ k < 258, s'.mem.read (Buffer.rxFrame.addr k) = s.mem.read (Buffer.rxFrame.addr k)) ∧
    exec .decode s = .next t ∧ t.regs.result = .ok ∧ 1 < t.regs.rxPlen.toNat :=
  ⟨rxState 7 [0x5A, 0x5A, 0x04, 0x03, 0x02, 0x04, 0xF8],
    { rxState 7 [0x5A, 0x5A, 0x04, 0x03, 0x02, 0x04, 0xF8] with pendingOp := 0x02 }, _, by decide, by decide,
    by decide +kernel, rfl, by decide, by decide⟩

theorem test_witness_StatusExtractWritesTheRecord : (ackState payloadS1).regs.ack = true ∧
    28 ≤ (ackState payloadS1).regs.rxPlen.toNat ∧ payloadS1.length = 28 ∧
    (ackState payloadS1).holds .rxPayload payloadS1 := by decide

theorem test_witness_StatusExtractPreconditions : State.reset.regs.ack = false ∧
    (ackState (List.replicate 27 0x00)).regs.ack = true ∧
    (ackState (List.replicate 27 0x00)).regs.rxPlen.toNat < 28 ∧ (ackState payloadS1).regs.ack = true ∧
    (ackState payloadS1).regs.rxPlen.toNat = 28 ∧ (ackState payloadS1).written .rxPayload 28 := by decide

/-- A payload that differs at offset 0, and the extraction. -/
theorem test_witness_StatusExtractIgnoresUnnamedOffsets : ∃ s s' t : State, s'.regs = s.regs ∧ s ≠ s' ∧
    (∀ k < 28, k ∉ [0, 11, 12, 14, 15, 19, 22, 26] →
      s'.mem.read (Buffer.rxPayload.addr k) = s.mem.read (Buffer.rxPayload.addr k)) ∧
    exec .statusExtract s = .next t ∧ t.regs.result = .ok :=
  ⟨ackState payloadS1, ackState (payloadS1.set 0 0x00), _, rfl, by decide, by decide, rfl, by decide⟩

theorem test_witness_UnwrittenBytesStop :
    (∀ n ∈ [1#8, 253], (withRegs { Regs.reset with txPlen := n }).regs.txPlen.toNat ≤ 253 ∧
      ¬(withRegs { Regs.reset with txPlen := n }).written .txPayload n.toNat) ∧
    (∀ n ∈ [5, 259], 5 ≤ (rxState n []).regs.rxFlen.toNat ∧ ¬(rxState n []).written .rxFrame (min n 258)) ∧
    (∀ b ∈ [Buffer.txPayload, .txFrame, .rxFrame, .rxPayload], State.reset.regs.busy = false ∧
      b.size - 1 < b.size ∧ (doing [.read (b.offset (b.size - 1))] State.reset).host = [.read (b.offset (b.size - 1))] ∧
      State.reset.mem.read (b.addr (b.size - 1)) = none) := by decide +kernel

/-- Operations with and without their operands. -/
theorem test_witness_EveryOperationCompletes : (txState 0x01 [0x00]).Ready .encode ∧
    (withRegs { Regs.reset with txPlen := 254 }).Ready .encode ∧ (rxState 5 [0x5A, 0x5A, 0x02, 0x01, 0xFD]).Ready .decode ∧
    (rxState 4 []).Ready .decode ∧ (ackState payloadS1).Ready .statusExtract ∧ State.reset.Ready .statusExtract ∧
    ¬(withRegs { Regs.reset with txPlen := 1 }).Ready .encode ∧ ¬(rxState 5 []).Ready .decode ∧
    ¬(withRegs { Regs.reset with ack := true, rxPlen := 28 }).Ready .statusExtract := by decide +kernel

/-- A completion for each premise: one that builds no request, one that does, a SOFT_RESET and an extraction. -/
theorem test_witness_OperationsWriteOnlyTheirOutputs :
    (∃ t, exec .decode (rxState 4 []) = .next t) ∧ (∃ t, exec .encSetMode (modeState 0x01 0x02) = .next t) ∧
    (∃ t, exec .softReset State.reset = .next t) ∧ (∃ t, exec .statusExtract (ackState payloadS1) = .next t) ∧
    (∃ t, exec .encode (txState 0x01 [0x00]) = .next t) :=
  ⟨⟨_, rfl⟩, ⟨_, rfl⟩, ⟨_, rfl⟩, ⟨_, rfl⟩, ⟨_, rfl⟩⟩

/-- A completion step of an assigned code, one of an unassigned code, a reset, and another move of the host. -/
theorem test_witness_AckChangesOnlyAsStated :
    (∀ op ∈ [0x00#8, 0x02, 0x03, 0x06, 0x0F, 0xFF], (busyState op 0).codecTurn = true ∧
      next? (step (busyState op 0)) (fun _ => true) = true) ∧
    ((doing [.rst] State.reset).codecTurn = false ∧ (doing [.rst] State.reset).resets ∧
      next? (step (doing [.rst] State.reset)) (fun _ => true) = true) ∧
    ((doing [.idle] State.reset).codecTurn = false ∧ ¬(doing [.idle] State.reset).resets ∧
      next? (step (doing [.idle] State.reset)) (fun _ => true) = true) :=
  ⟨by decide +kernel, ⟨by decide, ⟨[], rfl⟩, rfl⟩, by decide, (fun h => by obtain ⟨_, h⟩ := h; cases h), rfl⟩

theorem test_witness_RecValidChangesOnlyAsStated :
    ((busyState 0x06 0).codecTurn = true ∧ next? (step (busyState 0x06 0)) (fun _ => true) = true) ∧
    ((doing [.rst] (busyState 0x06 1)).codecTurn = false ∧ (doing [.rst] (busyState 0x06 1)).resets ∧
      next? (step (doing [.rst] (busyState 0x06 1))) (fun _ => true) = true) ∧
    (State.reset.codecTurn = false ∧ ¬State.reset.resets ∧ next? (step State.reset) (fun _ => true) = true) :=
  ⟨by decide, ⟨by decide, ⟨[], rfl⟩, rfl⟩, by decide, (fun h => by obtain ⟨_, h⟩ := h; cases h), rfl⟩

theorem test_witness_BusyAndDoneChangeOnlyAsStated :
    ((busyState 0x00 0).codecTurn = true ∧ next? (step (busyState 0x00 0)) (fun _ => true) = true) ∧
    ((doing [.rst] (busyState 0x00 1)).codecTurn = false ∧ (doing [.rst] (busyState 0x00 1)).resets ∧
      next? (step (doing [.rst] (busyState 0x00 1))) (fun _ => true) = true) ∧
    ((doing [.write 0x000 0x01] State.reset).codecTurn = false ∧
      (doing [.write 0x000 0x01] State.reset).writesCtrl ∧
      next? (step (doing [.write 0x000 0x01] State.reset)) (fun _ => true) = true) ∧
    ((doing [.write 0x002 0x01] State.reset).codecTurn = false ∧ ¬(doing [.write 0x002 0x01] State.reset).resets ∧
      ¬(doing [.write 0x002 0x01] State.reset).writesCtrl ∧
      next? (step (doing [.write 0x002 0x01] State.reset)) (fun _ => true) = true) :=
  ⟨by decide, ⟨by decide, ⟨[], rfl⟩, rfl⟩, ⟨by decide, .inl ⟨0x01, [], rfl⟩, by decide⟩, by decide,
    (fun h => by obtain ⟨_, h⟩ := h; cases h),
    (fun h => by obtain ⟨_, _, h⟩ | ⟨_, h⟩ := h <;> simp [doing] at h), by decide⟩

/-- A completion of each kind, a CTRL write, a STATUS read while BUSY = 1, and an RST event. -/
theorem test_witness_ResultChangesOnlyAsStated :
    (∀ op ∈ [0x00#8, 0x01, 0x02, 0x03, 0x06, 0x0F, 0xFF], (busyState op 0).codecTurn = true ∧
      next? (step (busyState op 0)) (fun _ => true) = true) ∧
    (∀ s ∈ [doing [.write 0x000 0x01] State.reset, doing [.read 0x001] (busyState 0x02 1)],
      s.codecTurn = false ∧ next? (step s) (fun _ => true) = true) ∧
    ¬(doing [.write 0x000 0x01] State.reset).resets ∧ ¬(doing [.read 0x001] (busyState 0x02 1)).resets ∧
    ((doing [.rst] (busyState 0x02 1)).codecTurn = false ∧ (doing [.rst] (busyState 0x02 1)).resets ∧
      next? (step (doing [.rst] (busyState 0x02 1))) (fun _ => true) = true) :=
  ⟨by decide +kernel, by decide, (fun h => by obtain ⟨_, h⟩ := h; simp [doing] at h),
    (fun h => by obtain ⟨_, h⟩ := h; simp [doing] at h), by decide, ⟨[], rfl⟩, rfl⟩

theorem test_witness_StepRunsThePendingInstruction : (busyState 0x01 0).regs.busy = true ∧
    (busyState 0x01 0).latency = 0 ∧ (Instr.setModeAndPriority 0x01 0x02).wf = true ∧
    decodeTableWord 8 0x0F = some .softReset := by decide

theorem test_witness_CtrlWriteStartsAnOperation : (doing [.write 0x000 0xFF] State.reset).regs.busy = false ∧
    (doing [.write 0x000 0x01] (busyState 0x02 1)).regs.busy = true ∧
    0 < (doing [.write 0x000 0x01] (busyState 0x02 1)).latency ∧
    (doing [.write 0x000 0x01] (busyState 0x02 1)).host = [.write 0x000 0x01] := by decide

theorem test_witness_OnlyStatusMayBeReadWhileBusy : ∀ h ∈ [HostMove.read 0x000, .read 0x002, .read 0x7FF,
    .write 0x001 0xFF, .write 0x7FF 0x00, .writeLast 0x400, .read 0x001],
    (doing [h] (busyState 0x02 1)).regs.busy = true ∧ 0 < (doing [h] (busyState 0x02 1)).latency ∧
    (doing [h] (busyState 0x02 1)).host = [h] := by decide

/-- Both ends of every reserved range, and their neighbours outside. -/
theorem test_witness_ReservedOffsetsReadZero :
    ([0x00C#11, 0x01F, 0x035, 0x0FF, 0x1FD, 0x1FF, 0x302, 0x3FF, 0x502, 0x5FF, 0x6FD, 0x7FF].all fun off =>
      decide (reservedOffset off) && [HostMove.read off, .write off 0xFF].all fun move =>
        (doing [move] State.reset).regs.busy == false && (doing [move] State.reset).host == [move] &&
        (doing [move] (busyState 0x02 1)).regs.busy == true && decide (0 < (doing [move] (busyState 0x02 1)).latency)) =
      true ∧
    ([0x00B#11, 0x020, 0x034, 0x100, 0x1FC, 0x200, 0x301, 0x400, 0x501, 0x600, 0x6FC].all fun off =>
      decide (¬reservedOffset off)) = true := by decide +kernel

theorem test_witness_ReadOnlyPlacesIgnoreWrites :
    ([0x001#11, 0x006, 0x007, 0x00A, 0x00B, 0x020, 0x034, 0x200, 0x301, 0x600, 0x6FC].all fun off =>
      decide (readOnlyOffset off) && (doing [.write off 0xFF] State.reset).regs.busy == false &&
        (doing [.write off 0xFF] State.reset).host == [.write off 0xFF]) = true ∧
    ([0x000#11, 0x002, 0x005, 0x008, 0x009, 0x100, 0x1FC, 0x400, 0x501].all fun off =>
      decide (¬readOnlyOffset off)) = true ∧
    (doing [.read 0x000] State.reset).regs.busy = false ∧
    (doing [.read 0x000] State.reset).host = [.read 0x000] := by decide +kernel

theorem test_witness_OnlyCtrlWritesHaveSideEffects :
    ((doing [.read 0x7FF] State.reset).regs.busy = false ∧ (doing [.read 0x7FF] State.reset).host = [.read 0x7FF] ∧
      next? (step (doing [.read 0x7FF] State.reset)) (fun _ => true) = true) ∧
    ((doing [.read 0x001] (busyState 0x02 1)).regs.busy = true ∧ 0 < (doing [.read 0x001] (busyState 0x02 1)).latency ∧
      (doing [.read 0x001] (busyState 0x02 1)).host = [.read 0x001]) ∧
    (0x400#11 ≠ 0x000 ∧ (doing [.write 0x400 0x5A, .write 0x400 0x5A] State.reset).regs.busy = false ∧
      (doing [.write 0x400 0x5A, .write 0x400 0x5A] State.reset).host = [.write 0x400 0x5A, .write 0x400 0x5A]) ∧
    ((doing [.write 0x000 0x06] State.reset).regs.busy = false ∧
      (doing [.write 0x000 0x06] State.reset).host = [.write 0x000 0x06]) := by decide

theorem test_witness_WritableBytesReadBack :
    ([0x002#11, 0x005, 0x008, 0x009, 0x100, 0x1FC, 0x400, 0x501].all fun off =>
      decide (readWriteOffset off) && (doing [.write off 0xFF] State.reset).regs.busy == false &&
        (doing [.write off 0xFF] State.reset).host == [.write off 0xFF]) = true ∧
    ([0x000#11, 0x001, 0x006, 0x007, 0x00A, 0x020, 0x1FD, 0x200, 0x502, 0x600].all fun off =>
      decide (¬readWriteOffset off)) = true := by decide +kernel

/-- The clauses on a register, on RX_FLEN and on a buffer byte, at the ends of their ranges. -/
theorem test_witness_WritableBytesReadBack_clauses :
    [0x002#11, 0x003, 0x004, 0x005, 0x008, 0x009].map BitVec.toNat = [0x002, 0x003, 0x004, 0x005, 0x008, 0x009] ∧
    (0 < 253 ∧ (0x100#11).toNat = 0x100 + 0) ∧ (252 < 253 ∧ (0x1FC#11).toNat = 0x100 + 252) ∧
    (0 < 258 ∧ (0x400#11).toNat = 0x400 + 0) ∧ (257 < 258 ∧ (0x501#11).toNat = 0x400 + 257) := by decide

/-- The last record register and the last byte of each buffer, at the offsets of spec/10 R38 to R42. -/
theorem test_witness_WindowShowsRegistersAndBuffers :
    (20 < 21 ∧ BitVec.ofNat 11 (0x020 + 20) = 0x034#11) ∧ (252 < 253 ∧ BitVec.ofNat 11 (0x100 + 252) = 0x1FC#11) ∧
    (257 < 258 ∧ BitVec.ofNat 11 (0x200 + 257) = 0x301#11) ∧ (257 < 258 ∧ BitVec.ofNat 11 (0x400 + 257) = 0x501#11) ∧
    (252 < 253 ∧ BitVec.ofNat 11 (0x600 + 252) = 0x6FC#11) ∧
    (∀ b ∈ [Buffer.txPayload, .txFrame, .rxFrame, .rxPayload], b.size - 1 < b.size) := by decide

/-- An RST event of an idle block, and one that aborts an operation. -/
theorem test_witness_HardwareResetClearsEverything : (doing [.rst] State.reset).codecTurn = false ∧
    (doing [.rst] (busyState 0x01 1)).codecTurn = false ∧ (doing [.rst] (busyState 0x01 1)).host = [.rst] ∧
    ([0x000#11, 0x001, 0x00B, 0x020, 0x034].all fun off => decide (registerOffset off)) = true := by decide +kernel

/-- A block with a request in TX_FRAME that meets the invariant. -/
def builtState : State :=
  { withRegs { Regs.reset with done := true, txCmd := 0x01, txFlen := 5 } with
    mem := Memory.writeRange [] 0x200 [0x5A, 0x5A, 0x02, 0x01, 0xFD] }

theorem test_built_inv : builtState.Inv := by constructor <;> first | decide | trivial

theorem test_ack_inv : (ackState payloadS1).Inv := by constructor <;> first | decide | trivial

/-- The invariant rules states out: a response byte that is counted and not there. -/
theorem test_inv_refuses : ¬(withRegs { Regs.reset with ack := true, rxPlen := 1 }).Inv := fun h =>
  absurd (h.payloadWritten rfl 0 (by decide)) (by decide)

/-- Steps from states with the invariant: an idle step at reset, and the completion of an extraction. -/
theorem test_witness_StepKeepsTheInvariant :
    (∃ t, step State.reset = .next t) ∧ State.reset.mem.wf = true ∧
    (∃ t, step { ackState payloadS1 with regs := { (ackState payloadS1).regs with busy := true }, pendingOp := 0x06 } =
      .next t) :=
  ⟨⟨_, rfl⟩, rfl, ⟨_, rfl⟩⟩

theorem test_witness_BusyAndDoneNeverTogether :
    ¬((busyState 0x00 0).regs.busy = true ∧ (busyState 0x00 0).regs.done = true) ∧
    next? (step (busyState 0x00 0)) (·.regs.done) = true := by decide

theorem test_witness_StatusExtractNeverStops : builtState.Inv ∧ (ackState payloadS1).Inv :=
  ⟨test_built_inv, test_ack_inv⟩

/-- The last counted byte of a request and of a payload. -/
theorem test_witness_MeaningfulOutputsCanBeRead :
    (builtState.Inv ∧ builtState.regs.busy = false ∧ 4 < builtState.regs.txFlen.toNat) ∧
    (ackState payloadS1).Inv ∧ (ackState payloadS1).regs.busy = false ∧ (ackState payloadS1).regs.ack = true ∧
    27 < (ackState payloadS1).regs.rxPlen.toNat :=
  ⟨⟨test_built_inv, by decide⟩, test_ack_inv, by decide⟩

theorem test_witness_StartedOperationCompletes : (busyState 0x01 3).regs.busy = true ∧ (busyState 0x01 3).host = [] ∧
    (∀ n ∈ [0, 1, 3], (doing [.poll] (busyState 0x01 n)).regs.busy = true ∧
      (doing [.poll] (busyState 0x01 n)).latency = n ∧ (doing [.poll] (busyState 0x01 n)).host = [.poll]) := by decide

theorem test_witness_HostExecRunsTheOperation : ∃ s u : State, s.regs.busy = false ∧
    s.host = hostExec .encSetMode ++ [] ∧
    exec (decodeCtrl (Instr.opCode .encSetMode)) { s.start (Instr.opCode .encSetMode) with latency := 0 } = .next u :=
  ⟨doing (hostExec .encSetMode) (modeState 0x01 0x02), _, by decide, by decide, rfl⟩

theorem test_witness_LoopbackRunReturnsThePayload : ∃ (s : State) (p : List Byte), s.regs.busy = false ∧
    p.length = s.regs.txPlen.toNat ∧ p.length ≤ 253 ∧ s.holds .txPayload p ∧
    s.host = hostExec .encode ++ hostLoopback (p.length + 5) ++ hostExec .decode ++ [] :=
  ⟨doing (hostExec .encode ++ hostLoopback 7 ++ hostExec .decode) (txState 0x03 [0x01, 0x02]), [0x01, 0x02],
    by decide⟩

end Sys2Proof.Tests
end

section
/-! The host's address map: which addresses lie in the window and at which offset (spec/00 R8, spec/20 R60, R61). -/

namespace Sys2Proof.Machine

/-- An address that lies `d` bytes above the base, inside the window, has offset `d`. -/
theorem offsetOf_base_add {d : Nat} (h : d < 0x800) : offsetOf (Config.fcBase + d) = some (BitVec.ofNat 11 d) := by
  have hin : Config.fcBase ≤ Config.fcBase + d ∧ Config.fcBase + d < Config.fcBase + 0x800 := by omega
  rw [offsetOf, if_pos hin, Nat.add_sub_cancel_left]

theorem offsetOf_busAddress (off : Offset) : offsetOf (busAddress off) = some off := by
  rw [busAddress, offsetOf_base_add off.isLt, BitVec.ofNat_toNat, BitVec.setWidth_eq]

theorem offsetOf_eq_none_iff (addr : Nat) :
    offsetOf addr = none ↔ addr < Config.fcBase ∨ Config.fcBase + 0x800 ≤ addr := by
  unfold offsetOf
  split
  case isTrue hin => simp only [reduceCtorEq, false_iff]; omega
  case isFalse hout => simp only [true_iff]; omega

/-- Settles O44: the window's addresses are the base plus an 11-bit offset, and the guard of `offsetOf` is the window's
range. -/
theorem windowIsWhereTheBaseSays : Obligations.WindowIsWhereTheBaseSays :=
  ⟨offsetOf_busAddress, offsetOf_eq_none_iff⟩

end Sys2Proof.Machine
end

section
/-! Everything a completion step can do, said once: the operation fetched, what it requires, and the state it leaves
(spec/30 R93, spec/43 R185). -/

namespace Sys2Proof.Machine

/-- The completions of the CTRL operations: from `s`, operation `i` completes with the given state. -/
inductive State.Completes (s : State) : Instr → State → Prop
  | nop : s.Completes .nop (s.complete .ok)
  | encodeStores (payload : List Byte) (hfits : s.regs.txPlen.toNat ≤ 253)
      (hoperand : s.txPayloadOperand = some payload) :
      s.Completes .encode (s.storeRequest (encodeFrame s.regs.txCmd payload))
  | encodeRefuses (hlong : 253 < s.regs.txPlen.toNat) : s.Completes .encode s.refuseRequest
  | decodeAccepts (held : List Byte) (command : Byte) (payload : List Byte) (hoperand : s.rxFrameOperand = some held)
      (hcheck : decodeFrame s.regs.rxFlen.toNat held = .accepted command payload) :
      s.Completes .decode (s.acceptResponse command payload)
  | decodeRejects (held : List Byte) (error : FrameError) (hoperand : s.rxFrameOperand = some held)
      (hcheck : decodeFrame s.regs.rxFlen.toNat held = .rejected error) :
      s.Completes .decode (s.rejectResponse error)
  | encStatusQuery : s.Completes .encStatusQuery
      ((s.setRequest cmdGeneralStatus 0).storeRequest (encodeFrame cmdGeneralStatus []))
  | encResetWorktime : s.Completes .encResetWorktime
      ((s.setRequest cmdResetWorkTime 0).storeRequest (encodeFrame cmdResetWorkTime []))
  | encSetMode : s.Completes .encSetMode
      (((s.setRequest cmdSetMode 2).setModePayload s.regs.modeArg s.regs.prioArg).storeRequest
        (encodeFrame cmdSetMode [s.regs.modeArg, s.regs.prioArg]))
  | extractNoPayload (hack : s.regs.ack = false) : s.Completes .statusExtract (s.refuseRecord .noPayload)
  | extractTooShort (hack : s.regs.ack = true) (hshort : s.regs.rxPlen.toNat < 28) :
      s.Completes .statusExtract (s.refuseRecord .tooShortPayload)
  | extractStores (hack : s.regs.ack = true) (hlong : 28 ≤ s.regs.rxPlen.toNat) (hread : s.statusReadable = true) :
      s.Completes .statusExtract s.storeRecord
  | softReset : s.Completes .softReset s.softReset
  | illegalOp (code : Byte) : s.Completes (.illegalOp code) (s.complete .illegalOp)

/-- A CTRL value starts an operation of its own, never a wire command (spec/30 R90, R91). -/
theorem wireRequest_decodeCtrl (v : Byte) : wireRequest (decodeCtrl v) = none := by
  unfold decodeCtrl
  split <;> rfl

theorem exec_completes {i : Instr} {s t : State} (hi : wireRequest i = none) (h : exec i s = .next t) :
    s.Completes i t := by
  cases i with
  | nop => cases h; exact .nop
  | encode =>
    obtain ⟨hlong, rfl⟩ | ⟨hfits, payload, hoperand, rfl⟩ := State.performEncode_next h
    · exact .encodeRefuses hlong
    · exact .encodeStores payload hfits hoperand
  | decode =>
    obtain ⟨held, hoperand, ⟨command, payload, hcheck, rfl⟩ | ⟨error, hcheck, rfl⟩⟩ := execDecode_next h
    · exact .decodeAccepts held command payload hoperand hcheck
    · exact .decodeRejects held error hoperand hcheck
  | encStatusQuery => cases h; exact .encStatusQuery
  | encResetWorktime => cases h; exact .encResetWorktime
  | encSetMode =>
    cases (State.buildSetMode_eq s _ _).symm.trans h
    exact .encSetMode
  | statusExtract =>
    obtain ⟨hack, rfl⟩ | ⟨hack, hshort, rfl⟩ | ⟨hack, hlong, hread, rfl⟩ := execStatusExtract_next h
    · exact .extractNoPayload hack
    · exact .extractTooShort hack hshort
    · exact .extractStores hack hlong hread
  | softReset => cases h; exact .softReset
  | illegalOp code => cases h; exact .illegalOp code
  | generalStatusQuery | resetWorkTimeCounter | setModeAndPriority _ _ => cases hi

/-- A step in the codec's turn is the completion of the operation fetched (spec/43 R185). -/
theorem step_completes {s t : State} (hturn : s.codecTurn = true) (h : step s = .next t) : s.Completes s.fetch t := by
  rw [step, if_pos hturn] at h
  exact exec_completes (wireRequest_decodeCtrl s.pendingOp) h

/-- A step out of the codec's turn is the outside world's. -/
theorem step_hostTurn {s t : State} (hturn : s.codecTurn = false) (h : step s = .next t) : s.hostTurn = .next t := by
  simpa [step, hturn] using h

/-- Every completion clears BUSY and sets DONE (spec/43 R185). -/
theorem State.Completes.busy_done {s t : State} {i : Instr} (h : s.Completes i t) :
    t.regs.busy = false ∧ t.regs.done = true := by
  cases h <;> exact ⟨rfl, rfl⟩

/-- DECODE's result is OK for no integrity failure (spec/60 R200). -/
theorem FrameError.result_ne_ok (e : FrameError) : e.result ≠ .ok := by cases e <;> decide

/-- RST and a CTRL write are different moves. -/
theorem State.not_writesCtrl_of_resets {s : State} (h : s.resets) : ¬s.writesCtrl := by
  obtain ⟨rest, hr⟩ := h
  simp [State.writesCtrl, hr]

section OutsideWorld

variable {s t : State} (hturn : s.codecTurn = false) (h : step s = .next t)
include hturn h

theorem step_regs_of_resets (hr : s.resets) : t.regs = Regs.reset := by
  obtain ⟨_, _, rfl⟩ | ⟨_, hnr, _⟩ | ⟨hnr, _⟩ := State.hostTurn_cases (step_hostTurn hturn h)
  · rfl
  · exact absurd hr hnr
  · exact absurd hr hnr

theorem step_regs_of_writesCtrl (hw : s.writesCtrl) : t.regs = s.regs.started := by
  obtain ⟨hr, _⟩ | ⟨_, _, _, _, _, rfl⟩ | ⟨_, hnw, _⟩ := State.hostTurn_cases (step_hostTurn hturn h)
  · exact absurd hw (State.not_writesCtrl_of_resets hr)
  · rfl
  · exact absurd hw hnw

/-- Any other move changes the registers by one register write at most. -/
theorem step_regs_of_other (hr : ¬s.resets) (hw : ¬s.writesCtrl) :
    t.regs = s.regs ∨ ∃ reg v, t.regs = s.regs.writeReg reg v := by
  obtain ⟨hr', _⟩ | ⟨hw', _⟩ | ⟨_, _, _, ⟨_, hregs⟩ | ⟨hregs, _⟩⟩ := State.hostTurn_cases (step_hostTurn hturn h)
  · exact absurd hr' hr
  · exact absurd hw' hw
  · exact hregs
  · exact .inl hregs

/-- Without RST a move of the outside world leaves ACK, REC_VALID and RESULT (spec/10 R27 to R29). -/
theorem step_keeps_outcome (hr : ¬s.resets) :
    t.regs.ack = s.regs.ack ∧ t.regs.recValid = s.regs.recValid ∧ t.regs.result = s.regs.result := by
  by_cases hw : s.writesCtrl
  · simp [step_regs_of_writesCtrl hturn h hw]
  · obtain hregs | ⟨reg, v, hregs⟩ := step_regs_of_other hturn h hr hw
    · simp [hregs]
    · obtain ⟨_, _, hack, hrec, hres, _⟩ := s.regs.writeReg_readOnly reg v
      exact hregs ▸ ⟨hack, hrec, hres⟩

/-- Without RST and without a CTRL write a move of the outside world leaves BUSY and DONE (spec/10 R25, R26). -/
theorem step_keeps_busy_done (hr : ¬s.resets) (hw : ¬s.writesCtrl) :
    t.regs.busy = s.regs.busy ∧ t.regs.done = s.regs.done := by
  obtain hregs | ⟨reg, v, hregs⟩ := step_regs_of_other hturn h hr hw
  · simp [hregs]
  · obtain ⟨hbusy, hdone, _⟩ := s.regs.writeReg_readOnly reg v
    exact hregs ▸ ⟨hbusy, hdone⟩

end OutsideWorld

/-- Settles O31: only a DECODE that a check refuses tells ACK = 0 from its result; every other completion writes or
keeps ACK outright. -/
theorem ackChangesOnlyAsStated : Obligations.AckChangesOnlyAsStated := by
  intro s t h
  refine ⟨fun hturn => ?_, fun hturn hr => congrArg Regs.ack (step_regs_of_resets hturn h hr),
    fun hturn hr => (step_keeps_outcome hturn h hr).1⟩
  have hc := step_completes hturn h
  generalize s.fetch = i at hc ⊢
  cases hc with
  | decodeRejects _ error => simp [error.result_ne_ok]
  | _ => rfl

/-- Settles O32: each completion writes or keeps REC_VALID outright. -/
theorem recValidChangesOnlyAsStated : Obligations.RecValidChangesOnlyAsStated := by
  intro s t h
  refine ⟨fun hturn => ?_, fun hturn hr => congrArg Regs.recValid (step_regs_of_resets hturn h hr),
    fun hturn hr => (step_keeps_outcome hturn h hr).2.1⟩
  have hc := step_completes hturn h
  generalize s.fetch = i at hc ⊢
  cases hc <;> rfl

/-- Settles O53: the code of each completion, by the guard under which it completes. -/
theorem resultChangesOnlyAsStated : Obligations.ResultChangesOnlyAsStated := by
  intro s t h
  refine ⟨fun hturn => ?_, fun hturn hr => congrArg Regs.result (step_regs_of_resets hturn h hr),
    fun hturn hr => (step_keeps_outcome hturn h hr).2.2⟩
  have hc := step_completes hturn h
  generalize s.fetch = i at hc ⊢
  cases hc with
  | encodeStores _ hfits => simp [Nat.not_lt.mpr hfits]
  | encodeRefuses hlong => simp [hlong]
  | decodeAccepts => simp
  | decodeRejects _ error => cases error <;> simp [FrameError.result]
  | extractNoPayload hack => simp [hack]
  | extractTooShort hack hshort => simp [hack, hshort]
  | extractStores hack hlong => simp [hack, Nat.not_lt.mpr hlong]
  | _ => rfl

/-- Settles O33: every completion clears BUSY and sets DONE, and of the moves of the outside world only RST and a CTRL
write touch them. -/
theorem busyAndDoneChangeOnlyAsStated : Obligations.BusyAndDoneChangeOnlyAsStated := by
  intro s t h
  refine ⟨fun hturn => (step_completes hturn h).busy_done, fun hturn hr => ?_, fun hturn hw => ?_,
    fun hturn => step_keeps_busy_done hturn h⟩
  · simp [step_regs_of_resets hturn h hr, Regs.reset]
  · simp [step_regs_of_writesCtrl hturn h hw]

/-- Settles O47: each kind of step sets at most one of the two, as O33 says. -/
theorem busyAndDoneNeverTogether : Obligations.BusyAndDoneNeverTogether := by
  intro s t hs h
  obtain ⟨hcodec, hreset, hctrl, hother⟩ := busyAndDoneChangeOnlyAsStated s t h
  by_cases hturn : s.codecTurn = true
  · simp [hcodec hturn]
  · have hturn : s.codecTurn = false := by simpa using hturn
    by_cases hr : s.resets
    · simp [hreset hturn hr]
    · by_cases hw : s.writesCtrl
      · simp [hctrl hturn hw]
      · simpa [hother hturn hr hw] using hs

end Sys2Proof.Machine
end

section
/-! The invariant of the block under every step: what each named update of the state keeps of it, then the completions
and the moves of the outside world. -/

namespace Sys2Proof.Machine

/-! ### The record registers -/

theorem high_nibble_le (b : Byte) : (b >>> 4).toNat ≤ 15 := by
  rw [BitVec.toNat_ushiftRight, Nat.shiftRight_eq_div_pow]
  have := b.isLt
  omega

theorem low_nibble_le (b : Byte) : (b &&& 0x0F).toNat ≤ 15 := by
  rw [BitVec.toNat_and]
  exact Nat.and_le_right

theorem bcd_toNat_le (b : Byte) : (bcd b).toNat ≤ 165 := by
  have hten : (10 : Byte).toNat = 10 := rfl
  rw [bcd, BitVec.toNat_add, BitVec.toNat_mul, hten]
  calc ((b >>> 4).toNat * 10 % 2 ^ 8 + (b &&& 0x0F).toNat) % 2 ^ 8
      ≤ (b >>> 4).toNat * 10 % 2 ^ 8 + (b &&& 0x0F).toNat := Nat.mod_le _ _
    _ ≤ (b >>> 4).toNat * 10 + (b &&& 0x0F).toNat := Nat.add_le_add_right (Nat.mod_le _ _) _
    _ ≤ 15 * 10 + 15 := Nat.add_le_add (Nat.mul_le_mul_right 10 (high_nibble_le b)) (low_nibble_le b)

/-- Bits a mask clears are clear in the masked byte. -/
theorem and_and_eq_zero {mask rest : Byte} (h : mask &&& rest = 0) (b : Byte) : b &&& mask &&& rest = 0 := by
  rw [BitVec.and_assoc, h]
  exact BitVec.and_zero

/-- STATUS_EXTRACT's formulas give legal record values, whatever the payload (spec/42 R163 to R172). -/
theorem StatusRecord.ofPayload_legal (p : Nat → Byte) : (StatusRecord.ofPayload p).Legal :=
  ⟨high_nibble_le _, low_nibble_le _, bcd_toNat_le _, bcd_toNat_le _, bcd_toNat_le _, bcd_toNat_le _, bcd_toNat_le _,
    bcd_toNat_le _, and_and_eq_zero rfl _, and_and_eq_zero rfl _, and_and_eq_zero rfl _⟩

/-! ### Updates of the state -/

/-- A range write takes the value of no byte away. -/
theorem Memory.isSome_read_writeRange {m : Memory} {c : Nat} (a : Nat) (bs : List Byte)
    (h : (m.read c).isSome = true) : ((m.writeRange a bs).read c).isSome = true := by
  rw [Memory.read_writeRange]
  split
  case isTrue hin => simpa using (by omega : c - a < bs.length)
  case isFalse => exact h

theorem State.written_writeRange (s : State) (b : Buffer) (bs : List Byte) :
    ({ s with mem := s.mem.writeRange b.base bs }).written b bs.length := by
  intro k hk
  simp [Buffer.addr, Memory.read_writeRange_inside _ _ _ hk, hk]

/-- The invariant speaks of the registers and the buffers alone. -/
theorem State.Inv.congr {s t : State} (hs : s.Inv) (hmem : t.mem = s.mem) (hregs : t.regs = s.regs) : t.Inv := by
  obtain ⟨regs, mem⟩ := t
  cases hmem
  cases hregs
  exact { hs with }

/-- A write of bytes inside a buffer keeps the invariant. -/
theorem State.Inv.writeRange {s : State} (hs : s.Inv) (b : Buffer) (k : Nat) (bs : List Byte)
    (hfit : k + bs.length ≤ b.size) : ({ s with mem := s.mem.writeRange (b.addr k) bs }).Inv :=
  { hs with
    canonical := Memory.wf_writeRange _ _ _ hs.canonical fun j hj => by
      rw [Buffer.addr, Nat.add_assoc]
      exact b.inBuffer_addr (by omega)
    frameWritten := fun j hj => Memory.isSome_read_writeRange _ _ (hs.frameWritten j hj)
    payloadWritten := fun hack j hj => Memory.isSome_read_writeRange _ _ (hs.payloadWritten hack j hj) }

theorem State.Inv.writeFromBase {s : State} (hs : s.Inv) (b : Buffer) (bs : List Byte) (hfit : bs.length ≤ b.size) :
    ({ s with mem := s.mem.writeRange b.base bs }).Inv :=
  hs.writeRange b 0 bs (by omega)

/-- The inputs of ENCODE are no part of the invariant. -/
theorem State.Inv.setRequest {s : State} (hs : s.Inv) (cmd plen : Byte) : (s.setRequest cmd plen).Inv := { hs with }

theorem State.Inv.setModePayload {s : State} (hs : s.Inv) (mode priority : Byte) :
    (s.setModePayload mode priority).Inv :=
  hs.writeFromBase .txPayload [mode, priority] (by simp [Buffer.size])

theorem State.Inv.start {s : State} (hs : s.Inv) (op : Byte) : (s.start op).Inv :=
  { hs with notBusyDone := by simp }

/-- A completion that leaves a coherent STATUS keeps the invariant. -/
theorem State.Inv.complete {s : State} (hs : s.Inv) {code : ResultCode} (hcode : (s.regs.completed code).Coherent) :
    (s.complete code).Inv :=
  { hs with notBusyDone := by simp, coherent := hcode }

/-- A host write of a register byte keeps the invariant. -/
theorem State.Inv.writeReg {s : State} (hs : s.Inv) (reg : Reg) (v : Byte) :
    ({ s with regs := s.regs.writeReg reg v }).Inv := by
  cases reg <;> exact { hs with }

/-- Registers at their reset values, but for DONE, with a canonical memory meet the invariant. -/
theorem State.inv_of_reset_regs {s : State} (done : Bool) (hmem : s.mem.wf = true)
    (hregs : s.regs = { Regs.reset with done := done }) : s.Inv where
  canonical := hmem
  notBusyDone := by simp [hregs, Regs.reset]
  txFlenLegal := by simp [hregs, Regs.reset]
  frameWritten := by simp [State.written, hregs, Regs.reset]
  rxPlenLegal := by simp [hregs, Regs.reset]
  payloadWritten := by simp [hregs, Regs.reset]
  recordLegal := by rw [hregs]; exact (by decide : StatusRecord.reset.Legal)
  coherent := by rw [hregs]; trivial

/-! ### Outputs of the operations -/

/-- Storing a request of a frame's length keeps the invariant (spec/10 R34, R40). -/
theorem State.Inv.storeRequest {s : State} (hs : s.Inv) {frame : List Byte} (hmin : 5 ≤ frame.length)
    (hmax : frame.length ≤ 258) : (s.storeRequest frame).Inv := by
  have hlen : (BitVec.ofNat 9 frame.length).toNat = frame.length := by
    rw [BitVec.toNat_ofNat]
    omega
  exact
    { hs.writeFromBase .txFrame frame hmax with
      notBusyDone := by simp
      txFlenLegal := by simp only [State.storeRequest_regs, hlen]; omega
      frameWritten := by
        simp only [State.storeRequest_regs, hlen]
        exact s.written_writeRange .txFrame frame
      payloadWritten := by simp
      coherent := trivial }

theorem State.Inv.refuseRequest {s : State} (hs : s.Inv) : s.refuseRequest.Inv :=
  { hs with
    notBusyDone := by simp
    txFlenLegal := by simp
    frameWritten := by simp [State.written]
    payloadWritten := by simp
    coherent := ⟨rfl, rfl⟩ }

/-- An acknowledged payload is there (spec/10 R37, R42). -/
theorem State.Inv.acceptResponse {s : State} (hs : s.Inv) (command : Byte) {payload : List Byte}
    (hmax : payload.length ≤ 253) : (s.acceptResponse command payload).Inv := by
  have hlen : (BitVec.ofNat 8 payload.length).toNat = payload.length := by
    rw [BitVec.toNat_ofNat]
    omega
  exact
    { hs.writeFromBase .rxPayload payload hmax with
      notBusyDone := by simp
      rxPlenLegal := by simpa only [State.acceptResponse_regs, hlen] using hmax
      payloadWritten := by
        simp only [State.acceptResponse_regs, hlen]
        exact fun _ => s.written_writeRange .rxPayload payload
      coherent := trivial }

/-- The free bytes of a refused response stay inside RX_PAYLOAD. -/
theorem State.Inv.rejectResponse {s : State} (hs : s.Inv) (error : FrameError) : (s.rejectResponse error).Inv := by
  have hmem := State.rejectResponse_mem s error
  have hlen := length_freeBytes s.draws Buffer.rxPayload.size
  generalize freeBytes s.draws Buffer.rxPayload.size = free at hmem hlen
  have hfree := hs.writeFromBase .rxPayload free hlen.le
  exact
    { hs with
      canonical := by rw [hmem]; exact hfree.canonical
      notBusyDone := by simp
      frameWritten := by rw [State.written, hmem]; exact hfree.frameWritten
      rxPlenLegal := by simp
      payloadWritten := by simp
      coherent := by cases error <;> exact ⟨rfl, rfl, rfl, rfl⟩ }

theorem State.Inv.storeRecord {s : State} (hs : s.Inv) : s.storeRecord.Inv :=
  { hs with
    notBusyDone := by simp
    recordLegal := StatusRecord.ofPayload_legal _
    coherent := trivial }

theorem State.Inv.refuseRecord {s : State} (hs : s.Inv) {code : ResultCode}
    (hcode : (s.refuseRecord code).regs.Coherent) : (s.refuseRecord code).Inv :=
  { hs with notBusyDone := by simp, coherent := hcode }

/-! ### Steps -/

/-- ENCODE's operand is as long as TX_PLEN says. -/
theorem State.txPayloadOperand_length {s : State} {payload : List Byte} (h : s.txPayloadOperand = some payload) :
    payload.length = s.regs.txPlen.toNat :=
  ((s.txPayloadOperand_eq_some payload).mp h).1

/-- Every completion keeps the invariant. -/
theorem State.Inv.completes {s t : State} {i : Instr} (hs : s.Inv) (h : s.Completes i t) : t.Inv := by
  cases h with
  | nop => exact hs.complete trivial
  | encodeStores payload hfits hoperand =>
    have := State.txPayloadOperand_length hoperand
    exact hs.storeRequest (by simp) (by rw [length_encodeFrame]; omega)
  | encodeRefuses => exact hs.refuseRequest
  | decodeAccepts held command payload hoperand hcheck =>
    exact hs.acceptResponse command (decodeFrame_payload_length hoperand hcheck).2
  | decodeRejects held error => exact hs.rejectResponse error
  | encStatusQuery => exact (hs.setRequest _ _).storeRequest (by simp) (by simp)
  | encResetWorktime => exact (hs.setRequest _ _).storeRequest (by simp) (by simp)
  | encSetMode => exact ((hs.setRequest _ _).setModePayload _ _).storeRequest (by simp) (by simp)
  | extractNoPayload hack => exact hs.refuseRecord ⟨hack, rfl⟩
  | extractTooShort hack hshort => exact hs.refuseRecord ⟨hack, rfl, hshort⟩
  | extractStores => exact hs.storeRecord
  | softReset => exact State.inv_of_reset_regs true hs.canonical rfl
  | illegalOp => exact hs.complete trivial

/-- Every move of the outside world keeps the invariant. -/
theorem State.Inv.hostTurn {s t : State} (hs : s.Inv) (h : s.hostTurn = .next t) : t.Inv := by
  obtain ⟨_, rest, rfl⟩ | ⟨_, _, _, rest, op, rfl⟩ |
    ⟨_, _, _, ⟨hmem, hregs | ⟨reg, v, hregs⟩⟩ | ⟨hregs, b, k, v, hk, _, hmem⟩⟩ := State.hostTurn_cases h
  · exact State.inv_of_reset_regs false Memory.wf_nil rfl
  · exact (hs.congr rfl rfl : ({ s with host := rest }).Inv).start op
  · exact hs.congr hmem hregs
  · exact (hs.writeReg reg v).congr hmem hregs
  · exact (hs.writeRange b k [v] hk).congr hmem hregs

/-- Settles O46: a step is a completion or a move of the outside world. -/
theorem stepKeepsTheInvariant : Obligations.StepKeepsTheInvariant := by
  intro s t hs h
  by_cases hturn : s.codecTurn = true
  · exact hs.completes (step_completes hturn h)
  · exact hs.hostTurn (step_hostTurn (by simpa using hturn) h)

end Sys2Proof.Machine
end

section
/-! What stands at each offset of the window, and what a host write of a byte does (spec/10 R22 to R42, spec/20 R61
to R68). -/

namespace Sys2Proof.Machine

/-! ### The map -/

theorem locate_record {k : Nat} (hk : k < 21) : locate (BitVec.ofNat 11 (0x020 + k)) = .record k := by
  have htoNat : (BitVec.ofNat 11 (0x020 + k)).toNat = 0x020 + k := by
    rw [BitVec.toNat_ofNat]
    omega
  simp only [locate, htoNat]
  rw [if_neg (by omega), if_neg (by omega), if_pos (by omega), Nat.add_sub_cancel_left]

theorem State.windowRead_offset (s : State) (b : Buffer) {k : Nat} (hk : k < b.size) :
    s.windowRead (b.offset k) = s.mem.read (b.addr k) := by
  rw [State.windowRead, locate_offset b hk]

theorem State.windowRead_record (s : State) {k : Nat} (hk : k < 21) :
    s.windowRead (BitVec.ofNat 11 (0x020 + k)) = s.regs.record.toList[k]? := by
  have hlen : k < s.regs.record.toList.length := hk
  simp [State.windowRead, locate_record hk, hlen]

/-- Settles O54: the map at each offset the statement names. -/
theorem windowShowsRegistersAndBuffers : Obligations.WindowShowsRegistersAndBuffers := fun s =>
  ⟨rfl, rfl, rfl, rfl, rfl, rfl, fun _ => s.windowRead_record, rfl, fun _ => s.windowRead_offset .txPayload,
    fun _ => s.windowRead_offset .txFrame, fun _ => s.windowRead_offset .rxFrame,
    fun _ => s.windowRead_offset .rxPayload, fun b _ => s.windowRead_offset b⟩

/-- STATUS is a concatenation of its fields, so each stands above the widths of those below it (spec/10 R24). -/
theorem Regs.statusByte_fields (r : Regs) :
    r.statusByte.getLsbD 0 = r.busy ∧ r.statusByte.getLsbD 1 = r.done ∧ r.statusByte.getLsbD 2 = r.ack ∧
    r.statusByte.getLsbD 3 = r.recValid ∧ r.statusByte.extractLsb' 4 3 = r.result.code ∧
    r.statusByte.getLsbD 7 = false := by
  have hresult : r.statusByte.extractLsb' 4 3 = r.result.code := by
    apply BitVec.eq_of_getLsbD_eq
    intro i hi
    rw [BitVec.getLsbD_extractLsb', Regs.statusByte]
    simp only [BitVec.getLsbD_append]
    rw [if_neg (by omega), if_neg (by omega), if_neg (by omega), if_neg (by omega), if_pos (by omega)]
    simp only [hi, decide_true, Bool.true_and]
    congr 1
    omega
  refine ⟨?_, ?_, ?_, ?_, hresult, ?_⟩ <;> simp only [Regs.statusByte, BitVec.getLsbD_append] <;> simp

/-- Settles O42: the fields of the byte a STATUS read returns, and the numbers row by row. -/
theorem statusByteLayout : Obligations.StatusByteLayout :=
  ⟨fun s => ⟨s.regs.statusByte, rfl, s.regs.statusByte_fields⟩, rfl⟩

end Sys2Proof.Machine
end

section
/-! A host write of a byte of the window: what it sets, that it reads back, and that no other byte changes
(spec/10 R22, R30 to R35, R39, R41; spec/20 R65, R66). -/

namespace Sys2Proof.Machine

/-! ### Register bytes -/

/-- The register bytes a host write sets (spec/10 R30 to R33, R35). -/
def writableRegs : List Reg := [.txCmd, .txPlen, .modeArg, .prioArg, .rxFlenLo, .rxFlenHi]

theorem Regs.readReg_writeReg_same (r : Regs) {reg : Reg} (v : Byte) (h : reg ∈ writableRegs) :
    (r.writeReg reg v).readReg reg = v := by
  cases reg
  case rxFlenLo => exact extractLsb'_low_append _ _
  case rxFlenHi => exact extractLsb'_high_append _ _
  case txCmd | txPlen | modeArg | prioArg => rfl
  all_goals exact absurd h (by decide)

theorem Regs.readReg_writeReg_other (r : Regs) {reg other : Reg} (v : Byte) (h : other ≠ reg) :
    (r.writeReg reg v).readReg other = r.readReg other := by
  cases reg
  case rxFlenLo =>
    cases other
    case rxFlenLo => contradiction
    case rxFlenHi => exact extractLsb'_high_append _ _
    all_goals rfl
  case rxFlenHi =>
    cases other
    case rxFlenLo => exact extractLsb'_low_append _ _
    case rxFlenHi => contradiction
    all_goals rfl
  all_goals cases other <;> trivial

theorem Regs.writeRxFlenLo_eq (r : Regs) (v : Byte) :
    r.writeRxFlenLo v = { r with rxFlen := BitVec.ofNat 16 (r.rxFlen.toNat / 256 * 256 + v.toNat) } := by
  have hflen : r.rxFlenHi ++ v = BitVec.ofNat 16 (r.rxFlen.toNat / 256 * 256 + v.toNat) := by
    apply BitVec.eq_of_toNat_eq
    have := r.rxFlen.isLt
    have := v.isLt
    rw [toNat_append_bytes, BitVec.toNat_ofNat, Regs.rxFlenHi, BitVec.extractLsb'_toNat, Nat.shiftRight_eq_div_pow]
    omega
  rw [Regs.writeRxFlenLo, hflen]

theorem Regs.writeRxFlenHi_eq (r : Regs) (v : Byte) :
    r.writeRxFlenHi v = { r with rxFlen := BitVec.ofNat 16 (v.toNat * 256 + r.rxFlen.toNat % 256) } := by
  have hflen : v ++ r.rxFlenLo = BitVec.ofNat 16 (v.toNat * 256 + r.rxFlen.toNat % 256) := by
    apply BitVec.eq_of_toNat_eq
    have := v.isLt
    rw [toNat_append_bytes, BitVec.toNat_ofNat, Regs.rxFlenLo, BitVec.extractLsb'_toNat, Nat.shiftRight_eq_div_pow]
    omega
  rw [Regs.writeRxFlenHi, hflen]

/-! ### Which place an offset is -/

theorem locate_low {off : Offset} (h : off.toNat < 12) : locate off = .reg (regMap.getD off.toNat .ctrl) := by
  rw [locate, if_pos h]

theorem ite_ne_reg {c : Prop} [Decidable c] {x y : Loc} {reg : Reg} (hx : x ≠ .reg reg) (hy : y ≠ .reg reg) :
    (if c then x else y) ≠ .reg reg := by
  split <;> assumption

/-- From 0x00C on no offset is a register byte (spec/20 R61). -/
theorem locate_ne_reg {off : Offset} (h : 12 ≤ off.toNat) (reg : Reg) : locate off ≠ .reg reg := by
  rw [locate, if_neg (Nat.not_lt.mpr h)]
  repeat refine ite_ne_reg nofun ?_
  nofun

/-- A register byte's offset is its place in the register map (spec/10 R22). -/
theorem locate_reg {off : Offset} {reg : Reg} (h : locate off = .reg reg) :
    off.toNat < regMap.length ∧ regMap[off.toNat]? = some reg := by
  have hlow : off.toNat < regMap.length := Nat.lt_of_not_le fun hhigh => locate_ne_reg hhigh reg h
  rw [locate_low hlow, List.getD_eq_getElem _ _ hlow] at h
  exact ⟨hlow, by rw [List.getElem?_eq_getElem hlow, Loc.reg.inj h]⟩
theorem locate_reg_inj {off other : Offset} {reg : Reg} (h : locate off = .reg reg) (h' : locate other = .reg reg) :
    other = off := by
  have hnodup : regMap.Nodup := by decide
  obtain ⟨_, hoff⟩ := locate_reg h
  obtain ⟨hlt, hother⟩ := locate_reg h'
  exact BitVec.eq_of_toNat_eq ((List.getElem?_inj hlt hnodup).mp (hother.trans hoff.symm))

theorem eq_offset_of_toNat_eq_addr {off : Offset} {b : Buffer} {k : Nat} (hk : k < b.size)
    (h : off.toNat = b.addr k) : off = b.offset k :=
  BitVec.eq_of_toNat_eq (h.trans (locate_buffer (locate_offset b hk)).2)

/-- A place the host reads and writes is a writable register byte or a byte of TX_PAYLOAD or RX_FRAME. -/
theorem locate_readWriteOffset {off : Offset} (h : readWriteOffset off) :
    (∃ reg ∈ writableRegs, locate off = .reg reg) ∨
    ∃ (b : Buffer) (k : Nat), k < b.size ∧ (b = .txPayload ∨ b = .rxFrame) ∧ off = b.offset k := by
  have hregs : ∀ n < 12, (2 ≤ n ∧ n ≤ 5) ∨ n = 8 ∨ n = 9 → regMap.getD n .ctrl ∈ writableRegs := by decide
  have hreg : (2 ≤ off.toNat ∧ off.toNat ≤ 5) ∨ off.toNat = 8 ∨ off.toNat = 9 →
      ∃ reg ∈ writableRegs, locate off = .reg reg := fun hoff => by
    have hlt : off.toNat < 12 := by omega
    exact ⟨_, hregs _ hlt hoff, locate_low hlt⟩
  have hbuffer (b : Buffer) (hw : b = .txPayload ∨ b = .rxFrame) (hlow : b.base ≤ off.toNat)
      (hhigh : off.toNat - b.base < b.size) :
      ∃ (b : Buffer) (k : Nat), k < b.size ∧ (b = .txPayload ∨ b = .rxFrame) ∧ off = b.offset k :=
    ⟨b, off.toNat - b.base, hhigh, hw, eq_offset_of_toNat_eq_addr hhigh (Nat.add_sub_cancel' hlow).symm⟩
  obtain h | h | h | ⟨hlow, hhigh⟩ | ⟨hlow, hhigh⟩ := h
  · exact .inl (hreg (.inl h))
  · exact .inl (hreg (.inr (.inl h)))
  · exact .inl (hreg (.inr (.inr h)))
  · exact .inr (hbuffer .txPayload (.inl rfl) hlow (by simp only [Buffer.base, Buffer.size]; omega))
  · exact .inr (hbuffer .rxFrame (.inr rfl) hlow (by simp only [Buffer.base, Buffer.size]; omega))

/-! ### The write -/

theorem State.windowWrite_reg (s : State) {off : Offset} {reg : Reg} (v : Byte) (h : locate off = .reg reg)
    (hreg : reg ≠ .ctrl) : s.windowWrite off v = { s with regs := s.regs.writeReg reg v } := by
  rw [State.windowWrite, h]
  cases reg
  case ctrl => contradiction
  all_goals rfl

theorem State.windowWrite_buffer (s : State) {b : Buffer} {k : Nat} (v : Byte) (hk : k < b.size)
    (hw : b = .txPayload ∨ b = .rxFrame) :
    s.windowWrite (b.offset k) v = { s with mem := s.mem.write (b.addr k) v } := by
  rw [State.windowWrite, locate_offset b hk]
  obtain rfl | rfl := hw <;> rfl

theorem State.windowRead_windowWrite_same (s : State) {off : Offset} (v : Byte) (h : readWriteOffset off) :
    (s.windowWrite off v).windowRead off = some v := by
  obtain ⟨reg, hreg, hloc⟩ | ⟨b, k, hk, hw, rfl⟩ := locate_readWriteOffset h
  · have hctrl : reg ≠ .ctrl := by
      rintro rfl
      exact absurd hreg (by decide)
    rw [State.windowWrite_reg s v hloc hctrl, State.windowRead, hloc]
    exact congrArg some (s.regs.readReg_writeReg_same v hreg)
  · rw [State.windowWrite_buffer s v hk hw, State.windowRead_offset _ b hk, Memory.read_write_same]

/-- A write other than to CTRL changes no other byte of the window (spec/20 R65). -/
theorem State.windowRead_windowWrite_other (s : State) {off other : Offset} (v : Byte) (hctrl : off ≠ ctrlOffset)
    (hother : other ≠ off) : (s.windowWrite off v).windowRead other = s.windowRead other := by
  obtain ⟨hloc, _⟩ | ⟨reg, hloc, _, hwrite⟩ | ⟨b, k, hloc, _, hwrite⟩ | hwrite := s.windowWrite_cases off v
  · exact absurd ((locate_eq_ctrl off).mp hloc) hctrl
  · rw [hwrite]
    unfold State.windowRead
    split
    case h_1 reg' hloc' =>
      have hne : reg' ≠ reg := fun heq => hother (locate_reg_inj hloc (heq ▸ hloc'))
      rw [s.regs.readReg_writeReg_other v hne]
    case h_2 =>
      obtain ⟨_, _, _, _, _, _, _, _, hrecord⟩ := s.regs.writeReg_readOnly reg v
      rw [hrecord]
    all_goals rfl
  · rw [hwrite]
    unfold State.windowRead
    split
    case h_3 b' k' hloc' =>
      have hne : b'.addr k' ≠ b.addr k := by
        rw [(locate_buffer hloc').2, (locate_buffer hloc).2]
        exact fun heq => hother (BitVec.eq_of_toNat_eq heq)
      exact s.mem.read_write_other v hne
    all_goals rfl
  · rw [hwrite]

/-- A write other than to CTRL changes registers and buffers only. -/
theorem State.sameRest_windowWrite (s : State) {off : Offset} (v : Byte) (hctrl : off ≠ ctrlOffset) :
    s.sameRest (s.windowWrite off v) := by
  obtain ⟨hloc, _⟩ | ⟨_, _, _, hwrite⟩ | ⟨_, _, _, _, hwrite⟩ | hwrite := s.windowWrite_cases off v
  · exact absurd ((locate_eq_ctrl off).mp hloc) hctrl
  all_goals
    rw [hwrite]
    exact ⟨⟨rfl, rfl, rfl, rfl⟩, rfl⟩

/-- Below the buffers a write leaves every buffer byte. -/
theorem State.windowWrite_mem (s : State) {off : Offset} (v : Byte) (hlow : off.toNat < 0x100) :
    (s.windowWrite off v).mem = s.mem := by
  obtain ⟨_, hwrite⟩ | ⟨_, _, _, hwrite⟩ | ⟨b, k, hloc, _⟩ | hwrite := s.windowWrite_cases off v
  · rw [hwrite, State.start_mem]
  · rw [hwrite]
  · have hbase : 0x100 ≤ b.base := by cases b <;> decide
    have haddr : b.base + k = off.toNat := (locate_buffer hloc).2
    omega
  · rw [hwrite]

/-- A write of a byte of a writable buffer sets that byte alone. -/
theorem State.windowWrite_sets_buffer_byte (s : State) {off : Offset} {b : Buffer} {k : Nat} (v : Byte)
    (hw : b = .txPayload ∨ b = .rxFrame) (hk : k < b.size) (hoff : off.toNat = b.addr k) :
    (s.windowWrite off v).regs = s.regs ∧ (s.windowWrite off v).mem.read (b.addr k) = some v ∧
      ∀ a, a ≠ b.addr k → (s.windowWrite off v).mem.read a = s.mem.read a := by
  rw [eq_offset_of_toNat_eq_addr hk hoff, State.windowWrite_buffer s v hk hw]
  exact ⟨rfl, s.mem.read_write_same _ v, fun _ ha => s.mem.read_write_other v ha⟩

/-- The registers after a write of the register byte at a given offset. -/
theorem State.windowWrite_regs (s : State) {off : Offset} (n : Nat) (reg : Reg) (v : Byte)
    (hloc : locate (BitVec.ofNat 11 n) = .reg reg) (hreg : reg ≠ .ctrl) (hoff : off.toNat = n) :
    (s.windowWrite off v).regs = s.regs.writeReg reg v := by
  subst hoff
  rw [BitVec.ofNat_toNat, BitVec.setWidth_eq] at hloc
  rw [State.windowWrite_reg s v hloc hreg]

/-- Settles O40: a step that writes an idle block is the window's write, each of whose clauses is a lemma above. -/
theorem writableBytesReadBack : Obligations.WritableBytesReadBack := by
  intro s off v rest hrw hidle hhost
  have hctrl : off ≠ ctrlOffset := by
    rintro rfl
    exact absurd hrw (by decide)
  obtain ⟨⟨hpending, _, hrest, _⟩, hdraws⟩ := State.sameRest_windowWrite { s with host := rest } v hctrl
  refine ⟨_, step_write hidle hhost, State.windowRead_windowWrite_same _ v hrw,
    fun _ => State.windowRead_windowWrite_other _ v hctrl, hrest, hpending, hdraws,
    State.windowWrite_regs _ 2 .txCmd v locate_txCmd (by decide),
    State.windowWrite_regs _ 3 .txPlen v locate_txPlen (by decide),
    State.windowWrite_regs _ 4 .modeArg v locate_modeArg (by decide),
    State.windowWrite_regs _ 5 .prioArg v locate_prioArg (by decide), fun hoff => ?_, fun hoff => ?_,
    State.windowWrite_mem _ v, fun k => State.windowWrite_sets_buffer_byte _ v (.inl rfl),
    fun k => State.windowWrite_sets_buffer_byte _ v (.inr rfl)⟩
  · rw [State.windowWrite_regs _ 8 .rxFlenLo v locate_rxFlenLo (by decide) hoff]
    exact s.regs.writeRxFlenLo_eq v
  · rw [State.windowWrite_regs _ 9 .rxFlenHi v locate_rxFlenHi (by decide) hoff]
    exact s.regs.writeRxFlenHi_eq v

end Sys2Proof.Machine
end

section
/-! The window's access rules: reserved offsets, read-only places, the two lengths, and what reads and writes leave
unchanged (spec/20 R62, R65, R66, R68; spec/70 R240). -/

namespace Sys2Proof.Machine

/-! ### Places a host write is ignored at -/

theorem locate_record_toNat {off : Offset} {k : Nat} (h : locate off = .record k) :
    k < 21 ∧ 0x020 + k = off.toNat := by
  unfold locate at h
  simp only at h
  repeat' split at h
  all_goals cases h
  omega

/-- A reserved offset is no register byte, no record register and no buffer byte (spec/20 R61). -/
theorem locate_reservedOffset {off : Offset} (h : reservedOffset off) : locate off = .reserved := by
  cases hloc : locate off with
  | reg reg =>
    have hlow : off.toNat < 12 := (locate_reg hloc).1
    omega
  | record k =>
    have := locate_record_toNat hloc
    omega
  | buffer b k =>
    obtain ⟨hk, haddr⟩ := locate_buffer hloc
    cases b <;> simp only [Buffer.addr, Buffer.base, Buffer.size] at hk haddr <;> omega
  | reserved => rfl

theorem readWriteOffset_of_locate_reg {off : Offset} {reg : Reg} (h : locate off = .reg reg)
    (hreg : reg ∈ writableRegs) : readWriteOffset off := by
  have hplaces : ∀ reg ∈ writableRegs, ∀ n < 12, regMap[n]? = some reg →
      (2 ≤ n ∧ n ≤ 5) ∨ n = 8 ∨ n = 9 := by decide
  obtain ⟨hlow, hmap⟩ := locate_reg h
  have := hplaces reg hreg off.toNat hlow hmap
  omega

theorem readWriteOffset_of_locate_buffer {off : Offset} {b : Buffer} {k : Nat} (h : locate off = .buffer b k)
    (hw : b = .txPayload ∨ b = .rxFrame) : readWriteOffset off := by
  obtain ⟨hk, haddr⟩ := locate_buffer h
  obtain rfl | rfl := hw <;> simp only [Buffer.addr, Buffer.base, Buffer.size] at hk haddr <;> omega

theorem Regs.writeReg_of_not_writable (r : Regs) {reg : Reg} (v : Byte) (h : reg ∉ writableRegs) :
    r.writeReg reg v = r := by
  cases reg
  case ctrl | status | txFlenLo | txFlenHi | rxCmd | rxPlen => rfl
  all_goals exact absurd (by decide) h

/-- Outside CTRL and the places the host reads and writes, a write is ignored (spec/20 R62, R66). -/
theorem State.windowWrite_ignored (s : State) {off : Offset} (v : Byte) (hctrl : off ≠ ctrlOffset)
    (hrw : ¬readWriteOffset off) : s.windowWrite off v = s := by
  obtain ⟨hloc, _⟩ | ⟨reg, hloc, _, hwrite⟩ | ⟨b, k, hloc, hw, _⟩ | hwrite := s.windowWrite_cases off v
  · exact absurd ((locate_eq_ctrl off).mp hloc) hctrl
  · rw [hwrite, s.regs.writeReg_of_not_writable v fun hreg => hrw (readWriteOffset_of_locate_reg hloc hreg)]
  · exact absurd (readWriteOffset_of_locate_buffer hloc hw) hrw
  · exact hwrite

/-! ### Writes other than to CTRL -/

/-- A write other than to CTRL leaves BUSY. -/
theorem State.windowWrite_busy (s : State) {off : Offset} (v : Byte) (hctrl : off ≠ ctrlOffset) :
    (s.windowWrite off v).regs.busy = s.regs.busy := by
  obtain ⟨hloc, _⟩ | ⟨reg, _, _, hwrite⟩ | ⟨_, _, _, _, hwrite⟩ | hwrite := s.windowWrite_cases off v
  · exact absurd ((locate_eq_ctrl off).mp hloc) hctrl
  · rw [hwrite]
    exact (s.regs.writeReg_readOnly reg v).1
  · rw [hwrite]
  · rw [hwrite]

theorem Regs.writeReg_writeReg (r : Regs) (reg : Reg) (v : Byte) :
    (r.writeReg reg v).writeReg reg v = r.writeReg reg v := by
  cases reg
  case rxFlenLo => simp [Regs.writeReg, Regs.writeRxFlenLo, Regs.rxFlenHi]
  case rxFlenHi => simp [Regs.writeReg, Regs.writeRxFlenHi, Regs.rxFlenLo]
  all_goals rfl

/-- The window's write does not look at the moves to come. -/
theorem State.windowWrite_withHost (s : State) (off : Offset) (v : Byte) (moves : List HostMove) :
    ({ s with host := moves }).windowWrite off v = { s.windowWrite off v with host := moves } := by
  unfold State.windowWrite
  split <;> rfl

/-- A second equal write, whatever the moves to come, leaves the same state (spec/20 R65). -/
theorem State.windowWrite_again (s : State) {off : Offset} (v : Byte) (moves : List HostMove)
    (hctrl : off ≠ ctrlOffset) :
    ({ s.windowWrite off v with host := moves }).windowWrite off v = { s.windowWrite off v with host := moves } := by
  obtain ⟨hloc, _⟩ | ⟨reg, hloc, hreg, hwrite⟩ | ⟨b, k, hloc, hw, hwrite⟩ | hwrite := s.windowWrite_cases off v
  · exact absurd ((locate_eq_ctrl off).mp hloc) hctrl
  · rw [hwrite, State.windowWrite_reg _ v hloc hreg, Regs.writeReg_writeReg]
  · obtain ⟨hk, haddr⟩ := locate_buffer hloc
    obtain rfl := eq_offset_of_toNat_eq_addr hk haddr.symm
    rw [hwrite, State.windowWrite_buffer _ v hk hw, Memory.write_write]
  · rw [hwrite, State.windowWrite_withHost, hwrite]

/-! ### Accesses while an operation runs -/

theorem step_read_hazard {s : State} {off : Offset} {rest : List HostMove} (hbusy : s.regs.busy = true)
    (hwait : 0 < s.latency) (hhost : s.host = .read off :: rest) (hoff : off ≠ statusOffset) :
    step s = .fault .hazard := by
  rw [step_host_waiting hwait]
  have hguard : (s.regs.busy && off != statusOffset) = true := by simpa [hbusy] using hoff
  rw [State.hostTurn, hhost]
  exact if_pos hguard

theorem step_write_hazard {s : State} {off : Offset} {v : Byte} {rest : List HostMove} (hbusy : s.regs.busy = true)
    (hwait : 0 < s.latency) (hhost : s.host = .write off v :: rest) : step s = .fault .hazard := by
  rw [step_host_waiting hwait]
  simp [State.hostTurn, hhost, State.writeMove, hbusy]

/-- The one access allowed while an operation runs: a STATUS read, in which one step of the latency passes. -/
theorem step_read_status_waiting {s : State} {rest : List HostMove} (hbusy : s.regs.busy = true) (hwait : 0 < s.latency)
    (hhost : s.host = .read statusOffset :: rest) :
    step s = .next { s with host := rest, readData := s.regs.statusByte, latency := s.latency - 1 } := by
  rw [step_host_waiting hwait]
  simp [State.hostTurn, hhost, State.readMove, State.windowRead, Regs.readReg, State.tick, hbusy]

/-! ### Reads of an idle block -/

theorem State.windowRead_reservedOffset (s : State) {off : Offset} (h : reservedOffset off) :
    s.windowRead off = some 0 := by
  rw [State.windowRead, locate_reservedOffset h]

/-- A read of an idle block that answers is a read of a byte with a value, and sets only the read-data port
(spec/20 R65). -/
theorem step_read_next {s t : State} {off : Offset} {rest : List HostMove} (hidle : s.regs.busy = false)
    (hhost : s.host = .read off :: rest) (h : step s = .next t) :
    ∃ v, s.windowRead off = some v ∧ t = { s with host := rest, readData := v } := by
  have hmove : ({ s with host := rest }).readMove off = .next t := by
    rw [← h, step_host_idle hidle, State.hostTurn, hhost]
  obtain ⟨_, v, hread, _⟩ := State.readMove_next hmove
  have hread : s.windowRead off = some v := hread
  exact ⟨v, hread, Host.Outcome.next.inj (h.symm.trans (step_read hidle hhost hread))⟩

/-! ### The two bytes of a length -/

theorem Regs.txFlenHi_eq (r : Regs) : r.txFlenHi = BitVec.ofNat 8 (r.txFlen.toNat / 256) := by
  apply BitVec.eq_of_toNat_eq
  have := r.txFlen.isLt
  rw [Regs.txFlenHi, BitVec.toNat_setWidth, BitVec.extractLsb'_toNat, Nat.shiftRight_eq_div_pow, BitVec.toNat_ofNat]
  omega

theorem Regs.rxFlenHi_eq (r : Regs) : r.rxFlenHi = BitVec.ofNat 8 (r.rxFlen.toNat / 256) := by
  rw [Regs.rxFlenHi, BitVec.extractLsb', Nat.shiftRight_eq_div_pow]

/-- Writing both bytes of RX_FLEN (spec/20 R68). -/
theorem Regs.rxFlen_writeBoth (r : Regs) (hi lo : Byte) :
    ((r.writeRxFlenLo lo).writeRxFlenHi hi).rxFlen.toNat = hi.toNat * 256 + lo.toNat := by
  have hlo : (r.writeRxFlenLo lo).rxFlenLo = lo := extractLsb'_low_append _ _
  rw [Regs.writeRxFlenHi, hlo, toNat_append_bytes]

/-! ### The statements -/

/-- Settles O37: a reserved offset reads as zero, is no place the host writes, and is not STATUS. -/
theorem reservedOffsetsReadZero : Obligations.ReservedOffsetsReadZero := by
  intro s off v rest hres
  have hctrl : off ≠ ctrlOffset := by rintro rfl; exact absurd hres (by decide)
  have hstatus : off ≠ statusOffset := by rintro rfl; exact absurd hres (by decide)
  have hrw : ¬readWriteOffset off := by omega
  refine ⟨fun hidle hhost => step_read hidle hhost (s.windowRead_reservedOffset hres), fun hidle hhost => ?_,
    fun hbusy hwait hhost => step_read_hazard hbusy hwait hhost hstatus, step_write_hazard⟩
  rw [step_write hidle hhost, State.windowWrite_ignored _ v hctrl hrw]

/-- Settles O38: a read-only place is neither CTRL nor a place the host writes. -/
theorem readOnlyPlacesIgnoreWrites : Obligations.ReadOnlyPlacesIgnoreWrites := by
  refine ⟨fun s off v rest hro hidle hhost => ?_, fun s rest hidle hhost => step_read hidle hhost rfl⟩
  have hctrl : off ≠ ctrlOffset := by rintro rfl; exact absurd hro (by decide)
  have hrw : ¬readWriteOffset off := by omega
  rw [step_write hidle hhost, State.windowWrite_ignored _ v hctrl hrw]

/-- Settles O39: a read sets the read-data port alone, and the window's write outside CTRL is idempotent and keeps
BUSY, PENDING_OP and every other byte. -/
theorem onlyCtrlWritesHaveSideEffects : Obligations.OnlyCtrlWritesHaveSideEffects := by
  refine ⟨fun s t off rest hidle hhost hstep => ?_, fun s rest hbusy hwait hhost => ?_,
    fun s off v rest hctrl hidle hhost => ?_, fun s v rest hidle hhost => ?_⟩
  · obtain ⟨v, hread, rfl⟩ := step_read_next hidle hhost hstep
    exact ⟨rfl, hread.symm, rfl⟩
  · exact ⟨_, step_read_status_waiting hbusy hwait hhost, rfl⟩
  · have hfirst := step_write hidle hhost
    have hbusy := State.windowWrite_busy { s with host := .write off v :: rest } v hctrl
    have hagain := State.windowWrite_again { s with host := .write off v :: rest } v rest hctrl
    obtain ⟨⟨hpending, _, hmoves, _⟩, _⟩ :=
      State.sameRest_windowWrite { s with host := .write off v :: rest } v hctrl
    exact ⟨_, _, hfirst, step_write (hbusy.trans hidle) hmoves, hmoves, hagain, hbusy.trans hidle, hpending,
      fun _ => State.windowRead_windowWrite_other _ v hctrl⟩
  · exact ⟨_, step_write hidle hhost, rfl, rfl⟩

/-- Settles O41: each byte of a length is a slice of it; the two low bytes are so by definition. -/
theorem lengthsReadLowByteFirst : Obligations.LengthsReadLowByteFirst := fun s =>
  ⟨rfl, congrArg some s.regs.txFlenHi_eq, rfl, congrArg some s.regs.rxFlenHi_eq, s.regs.rxFlen_writeBoth⟩

end Sys2Proof.Machine
end

section
/-! The encodings: what each CTRL value decodes to, the frame byte by byte, and that decoding undoes encoding
(spec/30 R80, R88, R90, R91). -/

namespace Sys2Proof.Machine

/-! ### CTRL values -/

theorem mem_assignedCodes_iff (v : Byte) : v ∈ assignedCodes ↔ v.toNat ≤ 0x06 ∨ v.toNat = 0x0F := by
  simp only [assignedCodes, List.mem_cons, List.not_mem_nil, or_false]
  bv_omega

/-- The table answers an unassigned value with ILLEGAL_OP of that value (spec/30 R91). -/
theorem decodeCtrl_of_unassigned {v : Byte} (h : v ∉ assignedCodes) : decodeCtrl v = .illegalOp v := by
  rw [mem_assignedCodes_iff] at h
  unfold decodeCtrl
  split
  case h_9 => rfl
  all_goals omega

/-- The values of spec/30 R91's ranges are unassigned. -/
theorem decodeCtrl_of_illegal_range {v : Byte} (h : (0x07 ≤ v.toNat ∧ v.toNat ≤ 0x0E) ∨ 0x10 ≤ v.toNat) :
    decodeCtrl v = .illegalOp v :=
  decodeCtrl_of_unassigned (by rw [mem_assignedCodes_iff]; omega)

theorem wf_illegalOp_iff (code : Byte) : (Instr.illegalOp code).wf = true ↔ code ∉ assignedCodes := by
  simp [Instr.wf]

/-- A CTRL value decodes to a well-formed instruction whose one byte is that value (spec/30 R90). -/
theorem wf_and_encode_decodeCtrl (v : Byte) : (decodeCtrl v).wf = true ∧ encode (decodeCtrl v) = [v] := by
  have hassigned : ∀ v ∈ assignedCodes, (decodeCtrl v).wf = true ∧ encode (decodeCtrl v) = [v] := by decide
  by_cases hv : v ∈ assignedCodes
  · exact hassigned v hv
  · rw [decodeCtrl_of_unassigned hv]
    exact ⟨(wf_illegalOp_iff v).mpr hv, rfl⟩

theorem decodeCtrl_eq_nop_iff (v : Byte) : decodeCtrl v = .nop ↔ v = 0x00 := by
  constructor
  · intro h
    have hcode := (wf_and_encode_decodeCtrl v).2
    rw [h] at hcode
    exact (List.singleton_inj.mp hcode).symm
  · rintro rfl
    rfl

/-! ### Frames -/

theorem getElem?_transformFrom (i : Nat) (bs : List Byte) (k : Nat) :
    (transformFrom i bs)[k]? = bs[k]?.map (fun b => transform b (i + k)) := by
  induction bs generalizing i k with
  | nil => simp [transformFrom]
  | cons b bs ih =>
    cases k with
    | zero => simp [transformFrom]
    | succ k =>
      simp only [transformFrom, List.getElem?_cons_succ, ih]
      rw [Nat.add_right_comm, Nat.add_assoc]

/-- The bytes of a frame after LENGTH are the COMMAND_ID, the payload and the checksum, each transformed by its body
index (spec/40 R114). -/
theorem getElem?_encodeFrame (c : Byte) (p : List Byte) (k : Nat) :
    (encodeFrame c p)[3 + k]? =
      (c :: p ++ [checksum (lengthByte p :: c :: p)])[k]?.map (fun b => b + BitVec.ofNat 8 k) := by
  rw [Nat.add_comm, encodeFrame]
  simp only [List.getElem?_cons_succ, getElem?_transformFrom, transform, Nat.add_sub_cancel_left]

/-- The frame check accepts a body with its checksum and returns what it carries (spec/40 R120 to R122). -/
theorem checkBody_transformFrom (c : Byte) {p : List Byte} (hp : p.length ≤ 253) :
    checkBody (lengthByte p) (transformFrom 1 (c :: p ++ [checksum (lengthByte p :: c :: p)])) = .accepted c p := by
  simp [checkBody, lengthByte_toNat p hp]

/-- The frame check of a built frame returns its COMMAND_ID and payload (spec/40 R127). -/
theorem decodeFrame_encodeFrame (c : Byte) {p : List Byte} (hp : p.length ≤ 253) :
    decodeFrame (encodeFrame c p).length (encodeFrame c p) = .accepted c p := by
  have hlen : p.length + 5 = 3 + (lengthByte p).toNat := by
    rw [lengthByte_toNat p hp]
    omega
  rw [length_encodeFrame, encodeFrame, decodeFrame, if_neg (by omega)]
  simp only [ne_eq, not_true_eq_false, or_self, if_false, hlen]
  exact checkBody_transformFrom c hp

theorem decode_encodeFrame (c : Byte) {p : List Byte} (hp : p.length ≤ 253) :
    decode (encodeFrame c p) = decodeCommand c p := by
  have hwire : decode (encodeFrame c p) = decodeWire (encodeFrame c p) := rfl
  rw [hwire, decodeWire, decodeFrame_encodeFrame c hp]

/-! ### STATUS after a completion -/

/-- A completion leaves ACK and REC_VALID in STATUS, clears BUSY, sets DONE and writes RESULT (spec/10 R24 to R29). -/
theorem Regs.statusByte_completed (r : Regs) (code : ResultCode) :
    (r.completed code).statusByte = (r.statusByte &&& 0x0C) ||| (0#1 ++ code.code ++ 0x2#4) := by
  apply BitVec.eq_of_getLsbD_eq
  intro i hi
  simp only [Regs.statusByte, Regs.completed, BitVec.getLsbD_or, BitVec.getLsbD_and, BitVec.getLsbD_append]
  interval_cases i <;> simp

/-! ### The statements -/

/-- Settles O1: a CTRL byte by the table, a wire command by the frame check of its own frame. -/
theorem decodeOfEncodeIsTheInstruction : Obligations.DecodeOfEncodeIsTheInstruction := by
  intro i hi
  cases i with
  | illegalOp code => exact congrArg Decoded.instr (decodeCtrl_of_unassigned ((wf_illegalOp_iff code).mp hi))
  | generalStatusQuery => exact decode_encodeFrame 0x01 (p := []) (by simp)
  | resetWorkTimeCounter => exact decode_encodeFrame 0x09 (p := []) (by simp)
  | setModeAndPriority mode priority => exact decode_encodeFrame 0x03 (p := [mode, priority]) (by simp)
  | nop | encode | decode | encStatusQuery | encResetWorktime | encSetMode | statusExtract | softReset => rfl

/-- Settles O7: the header and LENGTH by definition, the body by its transformed bytes. -/
theorem encodedFrameLayout : Obligations.EncodedFrameLayout := by
  intro c p _
  refine ⟨length_encodeFrame c p, rfl, rfl, rfl, ?_, fun k hk => ?_, ?_⟩
  · simpa using getElem?_encodeFrame c p 0
  · have hbyte := getElem?_encodeFrame c p (k + 1)
    rw [List.cons_append, List.getElem?_cons_succ, List.getElem?_append_left hk] at hbyte
    rwa [show 4 + k = 3 + (k + 1) by omega]
  · have hbyte := getElem?_encodeFrame c p (p.length + 1)
    rw [List.cons_append, List.getElem?_cons_succ, List.getElem?_append_right le_rfl, Nat.sub_self] at hbyte
    rwa [show p.length + 4 = 3 + (p.length + 1) by omega]

/-- Settles O2: the eight rows by evaluation, the ranges of spec/30 R91 by being unassigned. -/
theorem ctrlCodesAreTheTable : Obligations.CtrlCodesAreTheTable :=
  ⟨rfl, rfl, rfl, rfl, rfl, rfl, rfl, rfl, fun _ => decodeCtrl_of_illegal_range, wf_and_encode_decodeCtrl⟩

/-- Settles O3: the sound words are encodings of well-formed instructions; the frame check names the failure of the
others. -/
theorem specWordsDecode : Obligations.SpecWordsDecode :=
  ⟨decodeOfEncodeIsTheInstruction .encode rfl, decodeOfEncodeIsTheInstruction .statusExtract rfl,
    decodeOfEncodeIsTheInstruction (.illegalOp 0x80) rfl, decodeOfEncodeIsTheInstruction .generalStatusQuery rfl,
    decodeOfEncodeIsTheInstruction .resetWorkTimeCounter rfl,
    decodeOfEncodeIsTheInstruction (.setModeAndPriority 1 2) rfl, rfl, rfl, rfl⟩

/-- Settles O15: the one byte of NOP is 0x00, and its meaning is the shared completion alone. -/
theorem nopOnlyCompletes : Obligations.NopOnlyCompletes :=
  ⟨decodeCtrl_eq_nop_iff, fun s => ⟨s.complete .ok, rfl, rfl, s.regs.statusByte_completed .ok⟩⟩

/-- Settles O16: the meaning of every unassigned value is the shared completion alone. -/
theorem illegalOpOnlyCompletes : Obligations.IllegalOpOnlyCompletes := fun _ s hv =>
  ⟨s.complete .illegalOp, decodeCtrl_of_illegal_range hv, rfl, rfl, s.regs.statusByte_completed .illegalOp⟩

end Sys2Proof.Machine
end

section
/-! What an instruction's meaning leaves alone: the buffers and registers outside the write column of spec/30 R93. -/

namespace Sys2Proof.Machine

/-- The request of COMMAND_ID `c` and payload `p` built and encoded, the payload placed in TX_PAYLOAD
(spec/41 R140 to R143). -/
def State.buildRequest (s : State) (c : Byte) (p : List Byte) : State :=
  { s.setRequest c (BitVec.ofNat 8 p.length) with
    mem := s.mem.writeRange Buffer.txPayload.base p }.storeRequest (encodeFrame c p)

/-- A wire command's meaning builds its own request (spec/41 R140). -/
theorem exec_wireRequest {i : Instr} {c : Byte} {p : List Byte} (hi : wireRequest i = some (c, p)) (s : State) :
    exec i s = .next (s.buildRequest c p) := by
  cases i with
  | generalStatusQuery | resetWorkTimeCounter => cases hi; rfl
  | setModeAndPriority mode priority => cases hi; exact s.buildSetMode_eq mode priority
  | nop | encode | decode | encStatusQuery | encResetWorktime | encSetMode | statusExtract | softReset
  | illegalOp _ => cases hi

/-- Everything a next state of an instruction can be: a CTRL operation's completion, or a wire command's request. -/
theorem exec_next {i : Instr} {s t : State} (h : exec i s = .next t) :
    s.Completes i t ∨ ∃ c p, wireRequest i = some (c, p) ∧ t = s.buildRequest c p := by
  cases hi : wireRequest i with
  | none => exact .inl (exec_completes hi h)
  | some request =>
    obtain ⟨c, p⟩ := request
    exact .inr ⟨c, p, rfl, Host.Outcome.next.inj (h.symm.trans (exec_wireRequest hi s))⟩

/-! ### Buffers -/

/-- The buffers an instruction writes (spec/30 R93, spec/10 R39 to R42). -/
def writesBuffer (i : Instr) : Buffer → Bool
  | .txPayload => setsModePayload i
  | .txFrame => buildsRequest i
  | .rxFrame => false
  | .rxPayload => decide (i = .decode)

/-- The buffers of the window do not overlap (spec/20 R61). -/
theorem Buffer.disjoint {b other : Buffer} (hne : b ≠ other) :
    b.base + b.size ≤ other.base ∨ other.base + other.size ≤ b.base := by
  cases b <;> cases other <;> simp [Buffer.base, Buffer.size] at hne ⊢

theorem Memory.read_writeRange_other_buffer (m : Memory) {b other : Buffer} (hne : b ≠ other) {bs : List Byte}
    (hfit : bs.length ≤ other.size) {k : Nat} (hk : k < b.size) :
    (m.writeRange other.base bs).read (b.addr k) = m.read (b.addr k) :=
  Memory.read_writeRange_outside m bs (by
    have := Buffer.disjoint hne
    rw [Buffer.addr]
    omega)

theorem ne_of_writesBuffer {i : Instr} {b written : Buffer} (hw : writesBuffer i written = true)
    (hb : writesBuffer i b = false) : b ≠ written := by
  rintro rfl
  exact Bool.false_ne_true (hb.symm.trans hw)

/-- Building a request writes TX_FRAME, and TX_PAYLOAD where the payload is not empty (spec/41 R141 to R143). -/
theorem State.buildRequest_keeps_buffer (s : State) (c : Byte) {p : List Byte} (hp : p.length ≤ 253) {b : Buffer}
    (hpayload : p = [] ∨ b ≠ .txPayload) (hframe : b ≠ .txFrame) {k : Nat} (hk : k < b.size) :
    (s.buildRequest c p).mem.read (b.addr k) = s.mem.read (b.addr k) := by
  have hfit : (encodeFrame c p).length ≤ Buffer.txFrame.size := by
    rw [length_encodeFrame, Buffer.size]
    omega
  refine (Memory.read_writeRange_other_buffer _ hframe hfit hk).trans ?_
  obtain rfl | hne := hpayload
  · rfl
  · exact Memory.read_writeRange_other_buffer _ hne hp hk

theorem exec_keeps_buffer {i : Instr} {s t : State} (h : exec i s = .next t) {b : Buffer}
    (hb : writesBuffer i b = false) {k : Nat} (hk : k < b.size) :
    t.mem.read (b.addr k) = s.mem.read (b.addr k) := by
  obtain hc | ⟨c, p, hi, rfl⟩ := exec_next h
  · cases hc with
    | encodeStores payload hfits hoperand =>
      have hlen := State.txPayloadOperand_length hoperand
      have hfit : (encodeFrame s.regs.txCmd payload).length ≤ Buffer.txFrame.size := by
        rw [length_encodeFrame, Buffer.size]
        omega
      exact Memory.read_writeRange_other_buffer _ (ne_of_writesBuffer rfl hb) hfit hk
    | encStatusQuery | encResetWorktime =>
      exact s.buildRequest_keeps_buffer _ (p := []) (by simp) (.inl rfl) (ne_of_writesBuffer rfl hb) hk
    | encSetMode =>
      exact s.buildRequest_keeps_buffer _ (p := [_, _]) (by simp) (.inr (ne_of_writesBuffer rfl hb))
        (ne_of_writesBuffer rfl hb) hk
    | decodeAccepts held command payload hoperand hcheck =>
      exact Memory.read_writeRange_other_buffer _ (ne_of_writesBuffer rfl hb)
        (decodeFrame_payload_length hoperand hcheck).2 hk
    | decodeRejects =>
      rw [State.rejectResponse_mem]
      exact Memory.read_writeRange_other_buffer _ (ne_of_writesBuffer rfl hb) (length_freeBytes _ _).le hk
    | nop | encodeRefuses | extractNoPayload | extractTooShort | extractStores | softReset | illegalOp => rfl
  · cases i with
    | generalStatusQuery | resetWorkTimeCounter =>
      cases hi
      exact s.buildRequest_keeps_buffer _ (by simp) (.inl rfl) (ne_of_writesBuffer rfl hb) hk
    | setModeAndPriority =>
      cases hi
      exact s.buildRequest_keeps_buffer _ (by simp) (.inr (ne_of_writesBuffer rfl hb)) (ne_of_writesBuffer rfl hb) hk
    | _ => cases hi

/-! ### Registers -/

section Registers

variable {i : Instr} {s t : State} (h : exec i s = .next t)
include h

/-- No meaning touches the latch or the moves to come. -/
theorem exec_sameLatch : s.sameLatch t := by
  obtain hc | ⟨c, p, _, rfl⟩ := exec_next h
  · cases hc <;> exact ⟨rfl, rfl, rfl, rfl⟩
  · exact ⟨rfl, rfl, rfl, rfl⟩

/-- RX_FLEN, MODE_ARG and PRIO_ARG are the host's (spec/10 R32, R33, R35). -/
theorem exec_keeps_hostRegs (hi : i ≠ .softReset) :
    t.regs.rxFlen = s.regs.rxFlen ∧ t.regs.modeArg = s.regs.modeArg ∧ t.regs.prioArg = s.regs.prioArg := by
  obtain hc | ⟨c, p, _, rfl⟩ := exec_next h
  · cases hc with
    | softReset => exact absurd rfl hi
    | _ => exact ⟨rfl, rfl, rfl⟩
  · exact ⟨rfl, rfl, rfl⟩

/-- Only building a request writes TX_FLEN (spec/10 R34). -/
theorem exec_keeps_txFlen (hi : i ≠ .softReset) (hb : buildsRequest i = false) : t.regs.txFlen = s.regs.txFlen := by
  obtain hc | ⟨c, p, hw, rfl⟩ := exec_next h
  · cases hc with
    | softReset => exact absurd rfl hi
    | encodeStores | encodeRefuses | encStatusQuery | encResetWorktime | encSetMode => cases hb
    | _ => rfl
  · cases i <;> cases hw <;> cases hb

/-- Only DECODE writes RX_CMD and RX_PLEN (spec/10 R36, R37). -/
theorem exec_keeps_response (hi : i ≠ .softReset) (hd : i ≠ .decode) :
    t.regs.rxCmd = s.regs.rxCmd ∧ t.regs.rxPlen = s.regs.rxPlen := by
  obtain hc | ⟨c, p, _, rfl⟩ := exec_next h
  · cases hc with
    | softReset => exact absurd rfl hi
    | decodeAccepts | decodeRejects => exact absurd rfl hd
    | _ => exact ⟨rfl, rfl⟩
  · exact ⟨rfl, rfl⟩

/-- Only the operations that place a request of their own write TX_CMD and TX_PLEN (spec/10 R30, R31). -/
theorem exec_keeps_request (hi : i ≠ .softReset) (hb : i = .encode ∨ buildsRequest i = false) :
    t.regs.txCmd = s.regs.txCmd ∧ t.regs.txPlen = s.regs.txPlen := by
  obtain hc | ⟨c, p, hw, rfl⟩ := exec_next h
  · cases hc with
    | softReset => exact absurd rfl hi
    | encStatusQuery | encResetWorktime | encSetMode => simp [buildsRequest] at hb
    | _ => exact ⟨rfl, rfl⟩
  · cases i <;> cases hw <;> simp [buildsRequest] at hb

/-- Only a STATUS_EXTRACT that answers OK writes the record (spec/10 R38). -/
theorem exec_keeps_record (hi : i ≠ .softReset) :
    t.regs.record = s.regs.record ∨ (i = .statusExtract ∧ t.regs.result = .ok) := by
  obtain hc | ⟨c, p, _, rfl⟩ := exec_next h
  · cases hc with
    | softReset => exact absurd rfl hi
    | extractStores => exact .inr ⟨rfl, rfl⟩
    | _ => exact .inl rfl
  · exact .inl rfl

end Registers

/-- Settles O30: the buffers by where each operation writes, the registers by its update. -/
theorem operationsWriteOnlyTheirOutputs : Obligations.OperationsWriteOnlyTheirOutputs := fun _ _ _ h =>
  ⟨fun _ => exec_keeps_buffer h (b := .rxFrame) rfl, fun hi _ => exec_keeps_buffer h (b := .txPayload) hi,
    fun hi _ => exec_keeps_buffer h (b := .txFrame) hi,
    fun hi _ => exec_keeps_buffer h (b := .rxPayload) (decide_eq_false hi), exec_keeps_hostRegs h, exec_keeps_txFlen h,
    exec_keeps_response h, exec_keeps_request h, exec_keeps_record h, exec_sameLatch h⟩

end Sys2Proof.Machine
end

section
/-! `exec NAME` run by the host: the CTRL write, the polls while the latency passes, the completion and the last poll
(spec/30 R95, spec/43 R184, R185). -/

namespace Sys2Proof.Machine

/-! ### A completion does not look at the outside world -/

/-- The state with other moves to come and another byte last read. -/
def State.withPorts (s : State) (moves : List HostMove) (byte : Byte) : State :=
  { s with host := moves, readData := byte }

theorem State.rejectResponse_withPorts (s : State) (error : FrameError) (moves : List HostMove) (byte : Byte) :
    (s.withPorts moves byte).rejectResponse error = (s.rejectResponse error).withPorts moves byte := by
  simp only [State.rejectResponse, State.withPorts, State.complete]

theorem State.Completes.withPorts {s t : State} {i : Instr} (h : s.Completes i t) (moves : List HostMove)
    (byte : Byte) : (s.withPorts moves byte).Completes i (t.withPorts moves byte) := by
  cases h with
  | nop => exact .nop
  | encodeStores payload hfits hoperand => exact .encodeStores payload hfits hoperand
  | encodeRefuses hlong => exact .encodeRefuses hlong
  | decodeAccepts held command payload hoperand hcheck => exact .decodeAccepts held command payload hoperand hcheck
  | decodeRejects held error hoperand hcheck =>
    rw [← State.rejectResponse_withPorts]
    exact .decodeRejects held error hoperand hcheck
  | encStatusQuery => exact .encStatusQuery
  | encResetWorktime => exact .encResetWorktime
  | encSetMode => exact .encSetMode
  | extractNoPayload hack => exact .extractNoPayload hack
  | extractTooShort hack hshort => exact .extractTooShort hack hshort
  | extractStores hack hlong hread => exact .extractStores hack hlong hread
  | softReset => exact .softReset
  | illegalOp code => exact .illegalOp code

/-- A completion is what the operation's meaning answers. -/
theorem State.Completes.exec_eq {s t : State} {i : Instr} (h : s.Completes i t) : exec i s = .next t := by
  cases h with
  | encodeStores payload hfits hoperand => exact s.performEncode_of_operand payload hfits hoperand
  | encodeRefuses hlong => exact if_pos hlong
  | decodeAccepts held command payload hoperand hcheck => simp [exec, execDecode, hoperand, hcheck]
  | decodeRejects held error hoperand hcheck => simp [exec, execDecode, hoperand, hcheck]
  | encSetMode => exact s.buildSetMode_eq _ _
  | extractNoPayload hack => exact if_pos hack
  | extractTooShort hack hshort => simp [exec, execStatusExtract, hack, hshort]
  | extractStores hack hlong hread => simp [exec, execStatusExtract, hack, hread, Nat.not_lt.mpr hlong]
  | nop | encStatusQuery | encResetWorktime | softReset | illegalOp => rfl

theorem exec_withPorts {i : Instr} {s t : State} (hi : wireRequest i = none) (h : exec i s = .next t)
    (moves : List HostMove) (byte : Byte) : exec i (s.withPorts moves byte) = .next (t.withPorts moves byte) :=
  ((exec_completes hi h).withPorts moves byte).exec_eq

/-! ### The moves of `exec` -/

/-- The CTRL write of an idle block (spec/43 R184). -/
theorem step_write_ctrl {s : State} {op : Byte} {rest : List HostMove} (hidle : s.regs.busy = false)
    (hhost : s.host = .write ctrlOffset op :: rest) : step s = .next (({ s with host := rest } : State).start op) :=
  step_write hidle hhost

/-- A poll while the latency passes reads STATUS and stays the next move. -/
theorem step_poll_waiting {s : State} {rest : List HostMove} (hbusy : s.regs.busy = true) (hwait : 0 < s.latency)
    (hhost : s.host = .poll :: rest) :
    step s = .next { s with readData := s.regs.statusByte, latency := s.latency - 1 } := by
  rw [step_host_waiting hwait]
  simp [State.hostTurn, hhost, State.readMove, State.windowRead, Regs.readReg, State.tick, hbusy]

/-- A poll of an idle block is the last one. -/
theorem step_poll_idle {s : State} {rest : List HostMove} (hidle : s.regs.busy = false)
    (hhost : s.host = .poll :: rest) : step s = .next (s.withPorts rest s.regs.statusByte) := by
  rw [step_host_idle hidle]
  simp [State.hostTurn, hhost, State.readMove, State.windowRead, Regs.readReg, State.tick, hidle, State.withPorts]

/-- Polling passes the whole latency (spec/70 R241, R247). -/
theorem State.run_latency_of_poll {s : State} {rest : List HostMove} (hbusy : s.regs.busy = true)
    (hhost : s.host = .poll :: rest) :
    s.run s.latency = .next
      { s with latency := 0, readData := if s.latency = 0 then s.readData else s.regs.statusByte } := by
  generalize hn : s.latency = n
  induction n generalizing s with
  | zero => rw [State.run_zero, if_pos rfl, ← hn]
  | succ n ih =>
    have hrest := ih (s := { s with readData := s.regs.statusByte, latency := s.latency - 1 }) hbusy hhost
      (by simp [hn])
    rw [State.run_succ_next n (step_poll_waiting hbusy (by omega) hhost), hrest]
    simp

/-- From a busy block the polls lead through the completion to the byte of its STATUS. -/
theorem State.run_poll_completes {s u : State} {rest : List HostMove} (hbusy : s.regs.busy = true)
    (hhost : s.host = .poll :: rest) (h : exec s.fetch { s with latency := 0 } = .next u) :
    s.run (s.latency + 2) = .next (u.withPorts rest u.regs.statusByte) := by
  have hwait := State.run_latency_of_poll hbusy hhost
  generalize (if s.latency = 0 then s.readData else s.regs.statusByte) = byte at hwait
  have hcompletes := exec_completes (wireRequest_decodeCtrl s.pendingOp) h
  have hstep : step { s with latency := 0, readData := byte } = .next (u.withPorts s.host byte) :=
    (step_codec (s := { s with latency := 0, readData := byte }) hbusy rfl).trans
      (hcompletes.withPorts s.host byte).exec_eq
  have hpoll : step (u.withPorts s.host byte) = .next (u.withPorts rest u.regs.statusByte) :=
    step_poll_idle hcompletes.busy_done.1 hhost
  rw [State.run_add 2 hwait, State.run_succ_next 1 hstep, State.run_one, hpoll]

/-- Settles O51: the CTRL write starts the operation, and the polls lead through its completion, which does not look
at the moves to come. -/
theorem hostExecRunsTheOperation : Obligations.HostExecRunsTheOperation := by
  intro s u i rest hidle hhost h
  have hstart := step_write_ctrl hidle hhost
  have hexec := exec_withPorts (wireRequest_decodeCtrl i.opCode) h (.poll :: rest) s.readData
  have hrun := State.run_poll_completes (s := ({ s with host := .poll :: rest } : State).start i.opCode) rfl rfl hexec
  exact ⟨_, _, (State.run_succ_next _ hstart).trans hrun, rfl, rfl, rfl, rfl⟩

end Sys2Proof.Machine
end

section
/-! The pure functions of the codec: the rolling transform, the checksum and the frame check, one equation per branch
(spec/40 R110 to R122, R127 to R129). -/

namespace Sys2Proof.Machine

/-! ### The rolling transform -/

@[simp] theorem transform_untransform (w : Byte) (i : Nat) : transform (untransform w i) i = w := by
  simp [transform, untransform]

theorem toNat_transform (b : Byte) (i : Nat) : (transform b i).toNat = (b.toNat + (i - 1)) % 256 := by
  rw [transform, BitVec.toNat_add, BitVec.toNat_ofNat]
  omega

theorem toNat_untransform (w : Byte) {i : Nat} (hi : i ≤ 256) :
    (untransform w i).toNat = (w.toNat + 256 - (i - 1)) % 256 := by
  rw [untransform, BitVec.toNat_sub, BitVec.toNat_ofNat]
  omega

theorem untransform_injective (i : Nat) : Function.Injective (untransform · i) :=
  Function.LeftInverse.injective (g := (transform · i)) fun w => transform_untransform w i

/-- A constant added to a wire byte is added to the recovered body byte (spec/40 R111). -/
theorem untransformFrom_modify_add (i : Nat) (ws : List Byte) (k : Nat) (d : Byte) :
    untransformFrom i (ws.modify k (· + d)) = (untransformFrom i ws).modify k (· + d) := by
  induction ws generalizing i k with
  | nil => simp [untransformFrom]
  | cons w ws ih =>
    cases k with
    | zero => simp [untransformFrom, untransform, add_sub_right_comm]
    | succ k => simp [untransformFrom, ih]

/-! ### Sums and the checksum -/

theorem toNat_sum8 (bs : List Byte) : (sum8 bs).toNat = (bs.map BitVec.toNat).sum % 256 := by
  induction bs with
  | nil => rfl
  | cons b bs ih => simp [sum8, ih]

theorem checksum_eq_not (region : List Byte) : checksum region = ~~~sum8 region :=
  BitVec.xor_allOnes (x := sum8 region)

/-- One byte completes a region to the sum 0xFF: its checksum (spec/40 R112, R113). -/
theorem sum8_concat_eq_FF_iff (region : List Byte) (ck : Byte) :
    sum8 (region ++ [ck]) = 0xFF ↔ ck = checksum region := by
  rw [sum8_append, checksum_eq_not, sum8, sum8]
  bv_omega

theorem sum8_modify_add {bs : List Byte} {k : Nat} (d : Byte) (hk : k < bs.length) :
    sum8 (bs.modify k (· + d)) = sum8 bs + d := by
  induction bs generalizing k with
  | nil => simp at hk
  | cons b bs ih =>
    cases k with
    | zero => simp [sum8, add_right_comm]
    | succ k => simp [sum8, ih (Nat.lt_of_succ_lt_succ hk), BitVec.add_assoc]

/-- The sum tells apart byte sequences that differ in exactly one place (spec/40 R128). -/
theorem sum8_ne_of_differ_once {xs ys : List Byte} {i : Nat} (hlen : xs.length = ys.length)
    (hsame : ∀ k, k ≠ i → xs[k]? = ys[k]?) (hdiff : xs[i]? ≠ ys[i]?) : sum8 xs ≠ sum8 ys := by
  induction xs generalizing ys i with
  | nil =>
    obtain rfl := List.eq_nil_of_length_eq_zero hlen.symm
    exact absurd rfl hdiff
  | cons x xs ih =>
    obtain - | ⟨y, ys⟩ := ys
    · cases hlen
    cases i with
    | zero =>
      obtain rfl : xs = ys := List.ext_getElem? fun k => hsame (k + 1) k.succ_ne_zero
      have hne : x ≠ y := by simpa using hdiff
      simpa [sum8] using hne
    | succ i =>
      obtain rfl : x = y := by simpa using hsame 0 i.succ_ne_zero.symm
      have := ih (Nat.succ.inj hlen) (fun k hk => hsame (k + 1) (by omega)) hdiff
      simpa [sum8] using this

/-- A changed wire byte changes the sum of the recovered body (spec/40 R128). -/
theorem sum8_untransformFrom_ne {ws vs : List Byte} {i : Nat} (hlen : ws.length = vs.length)
    (hsame : ∀ k, k ≠ i → ws[k]? = vs[k]?) (hdiff : ws[i]? ≠ vs[i]?) :
    sum8 (untransformFrom 1 ws) ≠ sum8 (untransformFrom 1 vs) := by
  refine sum8_ne_of_differ_once (i := i) (by simpa using hlen) (fun k hk => ?_) ?_
  · simp only [getElem?_untransformFrom, hsame k hk]
  · simpa only [getElem?_untransformFrom] using (Option.map_injective (untransform_injective (1 + i))).ne hdiff

/-! ### The frame check, branch by branch -/

theorem decodeFrame_short {n : Nat} (f : List Byte) (hn : n < 5) : decodeFrame n f = .rejected .malformedHeader :=
  if_pos hn

/-- Step 1 of the frame check (spec/40 R118). -/
theorem decodeFrame_wrongHeader (n : Nat) {h0 h1 : Byte} (len : Byte) (rest : List Byte)
    (hheader : h0 ≠ headerByte ∨ h1 ≠ headerByte) :
    decodeFrame n (h0 :: h1 :: len :: rest) = .rejected .malformedHeader := by
  by_cases hn : n < 5
  · exact decodeFrame_short _ hn
  · exact (if_neg hn).trans (if_pos hheader)

/-- Step 2 of the frame check, and the steps after it (spec/40 R119). -/
theorem decodeFrame_header {n : Nat} (len : Byte) (rest : List Byte) (hn : 5 ≤ n) :
    decodeFrame n (headerByte :: headerByte :: len :: rest) =
      if n = 3 + len.toNat then checkBody len rest else .rejected .lengthMismatch := by
  simp [decodeFrame, Nat.not_lt.mpr hn]

/-- Steps 3 to 5 of the frame check on the recovered COMMAND_ID, payload and checksum (spec/40 R120 to R122). -/
theorem checkBody_eq {len c ck : Byte} {rest p : List Byte} (hlen : len.toNat = p.length + 2)
    (hbody : untransformFrom 1 rest = c :: (p ++ [ck])) :
    checkBody len rest =
      if sum8 (len :: untransformFrom 1 rest) = 0xFF then .accepted c p else .rejected .checksumMismatch := by
  have hck : sum8 (len :: c :: (p ++ [ck])) = 0xFF ↔ ck = checksum (len :: c :: p) :=
    sum8_concat_eq_FF_iff (len :: c :: p) ck
  rw [hbody, if_congr hck rfl rfl]
  simp [checkBody, hbody, hlen]

/-- A body of two bytes or more is a COMMAND_ID, a payload and a checksum (spec/30 R80). -/
theorem exists_body {bs : List Byte} {n : Nat} (hlen : bs.length = n) (hn : 2 ≤ n) :
    ∃ c p ck, bs = c :: (p ++ [ck]) ∧ n = p.length + 2 := by
  obtain - | ⟨c, bs⟩ := bs
  · simp only [List.length_nil] at hlen
    omega
  · obtain rfl | ⟨p, ck, rfl⟩ := bs.eq_nil_or_concat'
    · simp only [List.length_singleton] at hlen
      omega
    · exact ⟨c, p, ck, rfl, by simpa using hlen.symm⟩

theorem exists_untransformed_body {len : Byte} {rest : List Byte} (hrest : rest.length = len.toNat)
    (hlen : 2 ≤ len.toNat) :
    ∃ c p ck, untransformFrom 1 rest = c :: (p ++ [ck]) ∧ len.toNat = p.length + 2 :=
  exists_body ((length_untransformFrom 1 rest).trans hrest) hlen

/-- The checksum is the only failure of the steps after LENGTH (spec/40 R121). -/
theorem checkBody_rejected {len : Byte} {rest : List Byte} {e : FrameError} (h : checkBody len rest = .rejected e) :
    e = .checksumMismatch := by
  unfold checkBody at h
  simp only at h
  split at h
  · exact (FrameResult.rejected.inj h).symm
  · cases h

theorem checkBody_eq_rejected_iff {len : Byte} {rest : List Byte} (hrest : rest.length = len.toNat)
    (hlen : 2 ≤ len.toNat) :
    checkBody len rest = .rejected .checksumMismatch ↔ sum8 (len :: untransformFrom 1 rest) ≠ 0xFF := by
  obtain ⟨c, p, ck, hbody, hp⟩ := exists_untransformed_body hrest hlen
  rw [checkBody_eq hp hbody]
  split
  case isTrue hsum => exact iff_of_false nofun (not_not_intro hsum)
  case isFalse hsum => exact iff_of_true rfl hsum

/-- With header and length right the bytes after LENGTH decide. -/
theorem decodeFrame_of_length {len : Byte} (rest : List Byte) (hlen : 2 ≤ len.toNat) :
    decodeFrame (3 + len.toNat) (0x5A :: 0x5A :: len :: rest) = checkBody len rest :=
  (decodeFrame_header len rest (by omega)).trans (if_pos rfl)

theorem exists_frame_of_length {f : List Byte} (h : 3 ≤ f.length) : ∃ h0 h1 len rest, f = h0 :: h1 :: len :: rest := by
  match f, h with
  | h0 :: h1 :: len :: rest, _ => exact ⟨h0, h1, len, rest, rfl⟩

/-- After the header check no other step answers MALFORMED_HEADER (spec/40 R118). -/
theorem decodeFrame_eq_malformedHeader_iff {n : Nat} {f : List Byte} (hf : f.length = min n 258) :
    decodeFrame n f = .rejected .malformedHeader ↔ n < 5 ∨ f[0]? ≠ some 0x5A ∨ f[1]? ≠ some 0x5A := by
  by_cases hn : n < 5
  · simp [decodeFrame_short f hn, hn]
  · obtain ⟨h0, h1, len, rest, rfl⟩ := exists_frame_of_length (f := f) (by omega)
    by_cases hheader : h0 ≠ headerByte ∨ h1 ≠ headerByte
    · simpa [decodeFrame_wrongHeader n len rest hheader] using .inr hheader
    · obtain ⟨rfl, rfl⟩ : h0 = headerByte ∧ h1 = headerByte := by simpa using hheader
      have hbody : checkBody len rest ≠ .rejected .malformedHeader := fun h => nomatch checkBody_rejected h
      rw [decodeFrame_header len rest (by omega)]
      split <;> simp [hn, hbody]

/-- The body of a built frame sums to 0xFF (spec/40 R113). -/
theorem sum8_body (c : Byte) (p : List Byte) :
    sum8 (lengthByte p :: (c :: p ++ [checksum (lengthByte p :: c :: p)])) = 0xFF :=
  (sum8_concat_eq_FF_iff (lengthByte p :: c :: p) _).mpr rfl

/-- One changed byte is caught by the check its place falls under (spec/40 R128). -/
theorem decodeFrame_changed {c : Byte} {p f : List Byte} {j : Nat} (hp : p.length ≤ 253)
    (hlen : f.length = p.length + 5) (hsame : ∀ k, k ≠ j → f[k]? = (encodeFrame c p)[k]?)
    (hdiff : f[j]? ≠ (encodeFrame c p)[j]?) :
    decodeFrame f.length f =
      .rejected (if j < 2 then .malformedHeader else if j = 2 then .lengthMismatch else .checksumMismatch) := by
  obtain ⟨h0, h1, len, rest, rfl⟩ := exists_frame_of_length (f := f) (by omega)
  have hn : 5 ≤ (h0 :: h1 :: len :: rest).length := by omega
  have hrest : rest.length = p.length + 2 := by simpa using hlen
  have hplen := lengthByte_toNat p hp
  have hh0 : 0 ≠ j → h0 = headerByte := fun h => Option.some.inj (hsame 0 h)
  have hh1 : 1 ≠ j → h1 = headerByte := fun h => Option.some.inj (hsame 1 h)
  have hlb : 2 ≠ j → len = lengthByte p := fun h => Option.some.inj (hsame 2 h)
  match j with
  | 0 => exact decodeFrame_wrongHeader _ len rest (.inl fun h => hdiff (congrArg some h))
  | 1 => exact decodeFrame_wrongHeader _ len rest (.inr fun h => hdiff (congrArg some h))
  | 2 =>
    obtain rfl := hh0 (by decide)
    obtain rfl := hh1 (by decide)
    have hne : len.toNat ≠ (lengthByte p).toNat := fun h => hdiff (congrArg some (BitVec.eq_of_toNat_eq h))
    rw [decodeFrame_header len rest hn, if_neg (by rw [hlen]; omega)]
    rfl
  | i + 3 =>
    obtain rfl := hh0 (by omega)
    obtain rfl := hh1 (by omega)
    obtain rfl := hlb (by omega)
    have hbody : sum8 (untransformFrom 1 rest) ≠ sum8 (c :: p ++ [checksum (lengthByte p :: c :: p)]) := by
      rw [← untransformFrom_transformFrom 1 (c :: p ++ [checksum (lengthByte p :: c :: p)])]
      exact sum8_untransformFrom_ne (by simp [hrest]) (fun k hk => hsame (k + 3) (by omega)) hdiff
    have hsum : sum8 (lengthByte p :: untransformFrom 1 rest) ≠ 0xFF := by
      rw [← sum8_body c p, sum8, sum8]
      exact fun h => hbody ((BitVec.add_right_inj _).mp h)
    rw [decodeFrame_header _ rest hn, if_pos (by omega), if_neg (by omega), if_neg (by omega)]
    exact (checkBody_eq_rejected_iff (by omega) (by omega)).mpr hsum

/-- Two changes of the payload that cancel in the sum are not caught (spec/40 R128). -/
theorem decodeFrame_cancelling (c : Byte) {p : List Byte} {k : Nat} (hp : p.length ≤ 253) (hk : k + 1 < p.length) :
    ∃ q, decodeFrame (encodeFrame c p).length
      (((encodeFrame c p).modify (4 + k) (· + 1)).modify (5 + k) (· - 1)) = .accepted c q := by
  generalize hbs : p ++ [checksum (lengthByte p :: c :: p)] = bs
  have hbsLen : bs.length = p.length + 1 := by simp [← hbs]
  have hplen := lengthByte_toNat p hp
  have hsub : (fun b : Byte => b - 1) = (· + (-1)) := funext fun b => sub_eq_add_neg b 1
  generalize hrest : ((transformFrom 1 (c :: bs)).modify (k + 1) (· + 1)).modify (k + 2) (· - 1) = rest
  have hframe : ((encodeFrame c p).modify (4 + k) (· + 1)).modify (5 + k) (· - 1) =
      headerByte :: headerByte :: lengthByte p :: rest := by
    rw [encodeFrame, List.cons_append, hbs, Nat.add_comm 4 k, Nat.add_comm 5 k, ← hrest]
    rfl
  have hbody : untransformFrom 1 rest = c :: (bs.modify k (· + 1)).modify (k + 1) (· + (-1)) := by
    rw [← hrest, hsub, untransformFrom_modify_add, untransformFrom_modify_add, untransformFrom_transformFrom]
    rfl
  have hsum : sum8 (lengthByte p :: untransformFrom 1 rest) = 0xFF := by
    rw [hbody, ← sum8_body c p, List.cons_append, hbs]
    simp only [sum8]
    rw [sum8_modify_add _ (by simp; omega), sum8_modify_add _ (by omega), add_neg_cancel_right]
  have hrestLen : rest.length = (lengthByte p).toNat := by simp [← hrest, hbsLen, hplen]
  obtain ⟨c', q, ck, hq, hqlen⟩ := exists_untransformed_body hrestLen (by omega)
  obtain rfl : c = c' := (List.cons.inj (hbody.symm.trans hq)).1
  refine ⟨q, ?_⟩
  rw [hframe, length_encodeFrame, decodeFrame_header _ rest (by omega), if_pos (by omega), checkBody_eq hqlen hq,
    if_pos hsum]

/-! ### The statements -/

/-- Settles O8: the built frame passes the three checks, and its body is recovered byte by byte. -/
theorem decodeFrameOfEncodeFrame : Obligations.DecodeFrameOfEncodeFrame := fun c _ hp => decodeFrame_encodeFrame c hp

/-- Settles O4: both formulas, both inverses, and the transform of a sequence place by place. -/
theorem rollingTransformIsAPositionalBijection : Obligations.RollingTransformIsAPositionalBijection :=
  ⟨fun b i _ hi => ⟨toNat_transform b i, toNat_untransform b (by omega), untransform_transform b i,
    transform_untransform b i⟩, getElem?_transformFrom⟩

/-- Settles O5: the complement of the 8-bit sum, which is the exact sum modulo 256. -/
theorem checksumIsTheComplementOfTheSum : Obligations.ChecksumIsTheComplementOfTheSum := fun region => by
  rw [checksum_eq_not, BitVec.toNat_not, toNat_sum8]

/-- Settles O6: the checksum is the byte that completes the sum. -/
theorem bodyWithChecksumSumsToFF : Obligations.BodyWithChecksumSumsToFF := fun c p => sum8_body c p

/-- Settles O11: after a right header the length check is the only step that answers LENGTH_MISMATCH. -/
theorem lengthCheckIsExact : Obligations.LengthCheckIsExact := by
  intro n f hn hf hf0 hf1
  obtain ⟨h0, h1, len, rest, rfl⟩ := exists_frame_of_length (f := f) (by omega)
  obtain rfl : h0 = headerByte := by simpa using hf0
  obtain rfl : h1 = headerByte := by simpa using hf1
  have hbody : checkBody len rest ≠ .rejected .lengthMismatch := fun h => nomatch checkBody_rejected h
  rw [decodeFrame_header len rest hn]
  split
  case isTrue hlen => simp [hbody, hlen]
  case isFalse hlen => simp [hlen]

/-- Settles O12: both forms are the sum of the recovered body, the last byte being the checksum that completes it. -/
theorem checksumCheckIsExact : Obligations.ChecksumCheckIsExact := by
  intro len rest hlen hrest
  rw [decodeFrame_of_length rest hlen, checkBody_eq_rejected_iff hrest hlen]
  refine ⟨Iff.rfl, not_congr ?_⟩
  obtain ⟨c, p, ck, hbody, _⟩ := exists_untransformed_body hrest hlen
  rw [hbody, ← List.cons_append, List.getLast?_concat, List.dropLast_concat, Option.some.injEq]
  exact sum8_concat_eq_FF_iff (len :: c :: p) ck

/-- Settles O9: one changed byte breaks the check its place falls under, and two changes that cancel keep the sum. -/
theorem oneChangedByteIsCaught : Obligations.OneChangedByteIsCaught :=
  ⟨fun _ _ _ _ hp hlen _ => decodeFrame_changed hp (hlen.trans (length_encodeFrame _ _)),
    fun c _ _ => decodeFrame_cancelling c⟩

end Sys2Proof.Machine
end

section
/-! ENCODE and DECODE on a state whose buffers hold their operands: the outcome, the outputs and what stays
(spec/40 R115, R116, R122 to R126). -/

namespace Sys2Proof.Machine

/-! ### What the buffers hold -/

theorem State.txPayloadOperand_of_holds {s : State} {p : List Byte} (hlen : p.length = s.regs.txPlen.toNat)
    (hp : s.holds .txPayload p) : s.txPayloadOperand = some p :=
  (s.txPayloadOperand_eq_some p).mpr ⟨hlen, hlen ▸ hp⟩

theorem State.rxFrameOperand_of_holds {s : State} {f : List Byte} (hlen : f.length = s.regs.rxHeld)
    (hf : s.holds .rxFrame f) : s.rxFrameOperand = some f :=
  (s.rxFrameOperand_eq_some f).mpr ⟨hlen, hlen ▸ hf⟩

theorem Regs.rxHeld_of_five_le {r : Regs} (h : 5 ≤ r.rxFlen.toNat) : r.rxHeld = min r.rxFlen.toNat 258 :=
  if_neg (Nat.not_lt.mpr h)

theorem Regs.rxHeld_le (r : Regs) : r.rxHeld ≤ 258 := by
  unfold Regs.rxHeld
  split <;> omega

/-- A buffer holds the bytes written from its base. -/
theorem State.holds_of_mem_eq {s : State} {m : Memory} {b : Buffer} {bs : List Byte}
    (h : s.mem = m.writeRange b.base bs) : s.holds b bs := fun k hk => by
  rw [h]
  exact m.read_writeRange_inside b.base bs hk

/-- Bytes written from a buffer's base leave every other byte. -/
theorem State.sameOutside_of_mem_eq {s t : State} {b : Buffer} {bs : List Byte} {n : Nat}
    (h : t.mem = s.mem.writeRange b.base bs) (hn : bs.length = n) : s.sameOutside t b n := fun a ha => by
  rw [h]
  exact s.mem.read_writeRange_outside bs (hn ▸ ha)

/-! ### The outcomes -/

theorem exec_encode_of_holds {s : State} {p : List Byte} (hlen : p.length = s.regs.txPlen.toNat) (hp : p.length ≤ 253)
    (hholds : s.holds .txPayload p) : exec .encode s = .next (s.storeRequest (encodeFrame s.regs.txCmd p)) :=
  (State.Completes.encodeStores p (hlen ▸ hp) (State.txPayloadOperand_of_holds hlen hholds)).exec_eq

theorem exec_decode_of_accepted {s : State} {f : List Byte} {c : Byte} {p : List Byte}
    (hf : s.rxFrameOperand = some f) (h : decodeFrame s.regs.rxFlen.toNat f = .accepted c p) :
    exec .decode s = .next (s.acceptResponse c p) :=
  (State.Completes.decodeAccepts f c p hf h).exec_eq

theorem exec_decode_of_rejected {s : State} {f : List Byte} {e : FrameError} (hf : s.rxFrameOperand = some f)
    (h : decodeFrame s.regs.rxFlen.toNat f = .rejected e) : exec .decode s = .next (s.rejectResponse e) :=
  (State.Completes.decodeRejects f e hf h).exec_eq

/-- DECODE of fewer than 5 bytes reads no byte of RX_FRAME (spec/40 R118). -/
theorem exec_decode_short {s : State} (hs : s.regs.rxFlen.toNat < 5) :
    exec .decode s = .next (s.rejectResponse .malformedHeader) := by
  have hoperand : s.rxFrameOperand = some [] := by
    rw [State.rxFrameOperand, Regs.rxHeld, if_pos hs]
    rfl
  exact exec_decode_of_rejected hoperand (decodeFrame_short [] hs)

/-! ### DECODE as a function of the response -/

/-- DECODE's operand is read from RX_FLEN and RX_FRAME alone (spec/40 R126). -/
theorem State.rxFrameOperand_congr {s s' : State} (hlen : s'.regs.rxFlen = s.regs.rxFlen)
    (hbytes : ∀ k < 258, s'.mem.read (Buffer.rxFrame.addr k) = s.mem.read (Buffer.rxFrame.addr k)) :
    s'.rxFrameOperand = s.rxFrameOperand := by
  have hheld : s'.regs.rxHeld = s.regs.rxHeld := by rw [Regs.rxHeld, hlen, Regs.rxHeld]
  refine Option.ext fun f => ?_
  rw [State.rxFrameOperand_eq_some, State.rxFrameOperand_eq_some, hheld]
  refine and_congr_right fun _ => forall₂_congr fun k hk => ?_
  rw [hbytes k (hk.trans_le s.regs.rxHeld_le)]

/-- The same outputs of a DECODE: its registers and flags and, on success, the payload (spec/40 R126). -/
abbrev State.sameResponse (t t' : State) : Prop :=
  t'.regs.rxCmd = t.regs.rxCmd ∧ t'.regs.rxPlen = t.regs.rxPlen ∧ t'.regs.ack = t.regs.ack ∧
  t'.regs.recValid = t.regs.recValid ∧ t'.regs.result = t.regs.result ∧
  (t.regs.result = .ok → ∀ k < t.regs.rxPlen.toNat,
    t'.mem.read (Buffer.rxPayload.addr k) = t.mem.read (Buffer.rxPayload.addr k))

theorem exec_decode_congr {s s' t : State} (hlen : s'.regs.rxFlen = s.regs.rxFlen)
    (hbytes : ∀ k < 258, s'.mem.read (Buffer.rxFrame.addr k) = s.mem.read (Buffer.rxFrame.addr k))
    (h : exec .decode s = .next t) : ∃ t', exec .decode s' = .next t' ∧ t.sameResponse t' := by
  have hsame := State.rxFrameOperand_congr hlen hbytes
  obtain ⟨f, hf, ⟨c, p, hcheck, rfl⟩ | ⟨e, hcheck, rfl⟩⟩ := execDecode_next h
  · refine ⟨_, exec_decode_of_accepted (hsame.trans hf) (hlen ▸ hcheck), rfl, rfl, rfl, rfl, rfl, fun _ k hk => ?_⟩
    have hk : k < p.length := hk.trans_le (Nat.mod_le _ _)
    exact (s'.mem.read_writeRange_inside _ p hk).trans (s.mem.read_writeRange_inside _ p hk).symm
  · exact ⟨_, exec_decode_of_rejected (hsame.trans hf) (hlen ▸ hcheck), rfl, rfl, rfl, rfl, rfl,
      fun hok => absurd hok e.result_ne_ok⟩

/-! ### Responses longer than RX_FRAME -/

/-- No LENGTH byte declares more than 258 bytes: the header alone decides (spec/40 R125). -/
theorem decodeFrame_overlong {n : Nat} {f : List Byte} (hn : 258 < n) (hf : 3 ≤ f.length) :
    decodeFrame n f =
      .rejected (if f[0]? = some 0x5A ∧ f[1]? = some 0x5A then .lengthMismatch else .malformedHeader) := by
  obtain ⟨h0, h1, len, rest, rfl⟩ := exists_frame_of_length hf
  simp only [List.getElem?_cons_zero, List.getElem?_cons_succ, Option.some.injEq]
  split
  case isTrue hheader =>
    have hlen := len.isLt
    obtain ⟨rfl, rfl⟩ := hheader
    exact (decodeFrame_header len rest (by omega)).trans (if_neg (by omega))
  case isFalse hheader => exact decodeFrame_wrongHeader n len rest (not_and_or.mp hheader)

/-! ### The statements -/

/-- Settles O10: the header check is the only step that answers MALFORMED_HEADER, and a short response needs no byte. -/
theorem headerCheckIsExact : Obligations.HeaderCheckIsExact :=
  ⟨fun _ _ => decodeFrame_eq_malformedHeader_iff, fun _ hs => ⟨_, exec_decode_short hs, rfl⟩⟩

/-- Settles O13: RX_FRAME holds the two bytes that decide. -/
theorem overlongBufferLosesNothing : Obligations.OverlongBufferLosesNothing := by
  intro s whole hlong hlen hholds
  have htake : (whole.take 258).length = 258 := by simp only [List.length_take]; omega
  have hcheck : ∀ f : List Byte, 3 ≤ f.length → f[0]? = whole[0]? → f[1]? = whole[1]? →
      decodeFrame s.regs.rxFlen.toNat f = .rejected
        (if whole[0]? = some 0x5A ∧ whole[1]? = some 0x5A then .lengthMismatch else .malformedHeader) :=
    fun f hf h0 h1 => by rw [decodeFrame_overlong hlong hf, h0, h1]
  have hheld := hcheck (whole.take 258) (by omega) (List.getElem?_take_of_lt (by decide))
    (List.getElem?_take_of_lt (by decide))
  have hoperand : s.rxFrameOperand = some (whole.take 258) :=
    State.rxFrameOperand_of_holds (by rw [Regs.rxHeld_of_five_le (by omega), htake]; omega) hholds
  refine ⟨by rw [hlen, hheld, hcheck whole (by omega) rfl rfl], _, exec_decode_of_rejected hoperand hheld, ?_⟩
  rw [State.rejectResponse_regs]
  split <;> rfl

/-- Settles O18: ENCODE stores the frame of its operand, or refuses a payload that is too long. -/
theorem encodeBuildsTheFrame : Obligations.EncodeBuildsTheFrame := by
  refine ⟨rfl, fun s p hlen hp hholds => ?_, fun s hlong => ⟨_, (State.Completes.encodeRefuses hlong).exec_eq, rfl⟩⟩
  refine ⟨_, exec_encode_of_holds hlen hp hholds, State.holds_of_mem_eq rfl, ?_, ?_, ⟨⟨rfl, rfl, rfl, rfl⟩, rfl⟩,
    State.sameOutside_of_mem_eq rfl (length_encodeFrame _ p)⟩
  · simp only [State.storeRequest_regs, length_encodeFrame, BitVec.toNat_ofNat]
    omega
  · simp only [State.storeRequest_regs, length_encodeFrame]

/-- Settles O22: the recovered body is COMMAND_ID, payload and checksum, and DECODE stores the first two. -/
theorem decodeAcceptsASoundFrame : Obligations.DecodeAcceptsASoundFrame := by
  refine ⟨fun len c rest p hrest h => ?_, fun s f c p hlen hholds h => ?_⟩
  · have hfive := (decodeFrame_accepted h).1
    obtain ⟨c', p', ck, hbody, hp⟩ := exists_untransformed_body hrest (by omega)
    rw [decodeFrame_of_length rest (by omega), checkBody_eq hp hbody] at h
    split at h
    · cases h
      exact ⟨by omega, ck, hbody⟩
    · cases h
  · have hfive := (decodeFrame_accepted h).1
    have hoperand := State.rxFrameOperand_of_holds (hlen.trans (Regs.rxHeld_of_five_le hfive).symm) hholds
    have hp := (decodeFrame_payload_length hoperand h).2
    refine ⟨_, exec_decode_of_accepted hoperand h, State.holds_of_mem_eq rfl, hp, ?_, rfl, ⟨⟨rfl, rfl, rfl, rfl⟩, rfl⟩,
      State.sameOutside_of_mem_eq rfl rfl⟩
    simp only [State.acceptResponse_regs, BitVec.toNat_ofNat]
    omega

/-- Settles O23: a refused response clears the response registers and draws 253 free bytes into RX_PAYLOAD. -/
theorem decodeRejectsABadFrame : Obligations.DecodeRejectsABadFrame := by
  intro s f e hlen hholds h
  have hmem := s.rejectResponse_mem e
  have hfree := length_freeBytes s.draws Buffer.rxPayload.size
  generalize freeBytes s.draws Buffer.rxPayload.size = free at hmem hfree
  refine ⟨_, exec_decode_of_rejected (State.rxFrameOperand_of_holds hlen hholds) h, ?_, rfl, ⟨rfl, rfl, rfl, rfl⟩,
    State.sameOutside_of_mem_eq hmem hfree⟩
  have hwritten := s.written_writeRange .rxPayload free
  rw [hfree] at hwritten
  rw [State.written, hmem]
  exact hwritten

/-- Settles O24: DECODE keeps both its inputs, so the second DECODE is a DECODE of the same response. -/
theorem decodeDependsOnTheResponseAlone : Obligations.DecodeDependsOnTheResponseAlone := by
  intro s s' t hlen hbytes h
  have hflen : t.regs.rxFlen = s.regs.rxFlen := (exec_keeps_hostRegs h nofun).1
  have hframe : ∀ k < 258, t.mem.read (Buffer.rxFrame.addr k) = s.mem.read (Buffer.rxFrame.addr k) :=
    fun _ hk => exec_keeps_buffer h rfl hk
  exact ⟨exec_decode_congr hlen hbytes h, hflen, hframe, exec_decode_congr hflen hframe h⟩

end Sys2Proof.Machine
end

section
/-! ENCODE, `loopback`, DECODE run by the host: what the copy of the frame and the write of RX_FLEN leave, and the round
trip through the block (spec/30 R95, spec/40 R127). -/

namespace Sys2Proof.Machine

/-! ### The moves of `loopback` -/

/-- A read of a buffer byte of an idle block. -/
theorem step_read_buffer {s : State} {b : Buffer} {k : Nat} {v : Byte} {rest : List HostMove}
    (hidle : s.regs.busy = false) (hhost : s.host = .read (b.offset k) :: rest) (hk : k < b.size)
    (hv : s.mem.read (b.addr k) = some v) : step s = .next (s.withPorts rest v) :=
  step_read hidle hhost ((s.windowRead_offset b hk).trans hv)

/-- A write of a register byte other than CTRL of an idle block. -/
theorem step_write_reg {s : State} {off : Offset} {reg : Reg} {v : Byte} {rest : List HostMove}
    (hidle : s.regs.busy = false) (hhost : s.host = .write off v :: rest) (hloc : locate off = .reg reg)
    (hreg : reg ≠ .ctrl) : step s = .next { s with host := rest, regs := s.regs.writeReg reg v } :=
  (step_write hidle hhost).trans (congrArg _ (State.windowWrite_reg _ v hloc hreg))

/-- The write of a copied byte: what the host last read goes to RX_FRAME (spec/30 R95). -/
theorem step_writeLast_rxFrame {s : State} {k : Nat} {rest : List HostMove} (hidle : s.regs.busy = false)
    (hhost : s.host = .writeLast (Buffer.rxFrame.offset k) :: rest) (hk : k < 258) :
    step s = .next { s with host := rest, mem := s.mem.write (Buffer.rxFrame.addr k) s.readData } := by
  rw [step_host_idle hidle]
  simp [State.hostTurn, hhost, State.writeMove, hidle, State.windowWrite_buffer _ _ hk (.inr rfl)]

/-- The copy loop leaves the bytes of TX_FRAME in RX_FRAME and changes nothing else of the block. -/
theorem State.run_hostCopy {s : State} {j : Nat} {bs : List Byte} {rest : List HostMove} (hidle : s.regs.busy = false)
    (hhost : s.host = hostCopy j bs.length ++ rest) (hfit : j + bs.length ≤ 258)
    (hbytes : ∀ k < bs.length, s.mem.read (Buffer.txFrame.addr (j + k)) = bs[k]?) :
    ∃ n byte, s.run n = .next
      ({ s with mem := s.mem.writeRange (Buffer.rxFrame.addr j) bs }.withPorts rest byte) := by
  induction bs generalizing s j with
  | nil => exact ⟨0, s.readData, by rw [State.run_zero, ← show s.host = rest from hhost]; rfl⟩
  | cons b bs ih =>
    rw [List.length_cons] at hfit hbytes
    have hj : j < 258 := by omega
    have hread := step_read_buffer hidle hhost (b := .txFrame) hj (hbytes 0 (by omega))
    have hwrite := step_writeLast_rxFrame (rest := hostCopy (j + 1) bs.length ++ rest) (s := s.withPorts _ b)
      hidle rfl hj
    obtain ⟨n, byte, hrun⟩ := ih (j := j + 1) (s :=
      { s with mem := s.mem.write (Buffer.rxFrame.addr j) b, host := hostCopy (j + 1) bs.length ++ rest, readData := b })
      hidle rfl (by omega) fun k hk => by
        have hne : Buffer.txFrame.addr (j + 1 + k) ≠ Buffer.rxFrame.addr j := by
          simp only [Buffer.addr, Buffer.base]
          omega
        have hbyte := hbytes (k + 1) (by omega)
        rw [show j + (k + 1) = j + 1 + k by omega, List.getElem?_cons_succ] at hbyte
        exact (s.mem.read_write_other b hne).trans hbyte
    exact ⟨n + 2, byte, (State.run_succ_next _ hread).trans ((State.run_succ_next _ hwrite).trans hrun)⟩

/-- `setrx N` sets RX_FLEN (spec/30 R95, spec/20 R68). -/
theorem State.run_hostSetRx {s : State} {n : Nat} {rest : List HostMove} (hidle : s.regs.busy = false)
    (hhost : s.host = hostSetRx n ++ rest) (hn : n < 2 ^ 16) :
    s.run 2 = .next { s with regs := { s.regs with rxFlen := BitVec.ofNat 16 n }, host := rest } := by
  have hflen : ((s.regs.writeRxFlenLo (BitVec.ofNat 8 n)).writeRxFlenHi (BitVec.ofNat 8 (n / 256))).rxFlen =
      BitVec.ofNat 16 n := BitVec.eq_of_toNat_eq (by
    rw [Regs.rxFlen_writeBoth]
    simp only [BitVec.toNat_ofNat]
    omega)
  have hlo := step_write_reg hidle hhost locate_rxFlenLo (by decide)
  have hhi := step_write_reg
    (s := { s with host := .write 0x009 (BitVec.ofNat 8 (n / 256)) :: rest
                   regs := s.regs.writeReg .rxFlenLo (BitVec.ofNat 8 n) })
    hidle rfl locate_rxFlenHi (by decide)
  rw [State.run_succ_next 1 hlo, State.run_one, ← hflen]
  exact hhi

/-- The two reads of TX_FLEN that `loopback` begins with (spec/30 R95, spec/20 R68). -/
theorem State.run_readTxFlen {s : State} {rest : List HostMove} (hidle : s.regs.busy = false)
    (hhost : s.host = .read 0x006 :: .read 0x007 :: rest) : s.run 2 = .next (s.withPorts rest s.regs.txFlenHi) := by
  have hlo := step_read hidle hhost (v := s.regs.txFlenLo) rfl
  have hhi := step_read (s := s.withPorts (.read 0x007 :: rest) s.regs.txFlenLo) hidle rfl (v := s.regs.txFlenHi) rfl
  rw [State.run_succ_next 1 hlo, State.run_one]
  exact hhi

/-- `loopback` of the frame in TX_FRAME leaves it in RX_FRAME and its length in RX_FLEN, and changes nothing else of the
block (spec/30 R95). -/
theorem State.run_hostLoopback {s : State} {f : List Byte} {rest : List HostMove} (hidle : s.regs.busy = false)
    (hhost : s.host = hostLoopback f.length ++ rest) (hfit : f.length ≤ 258) (hf : s.holds .txFrame f) :
    ∃ n byte, s.run n = .next
      ({ s with mem := s.mem.writeRange Buffer.rxFrame.base f,
                regs := { s.regs with rxFlen := BitVec.ofNat 16 f.length } }.withPorts rest byte) := by
  rw [hostLoopback, List.append_assoc, List.append_assoc] at hhost
  have hread := State.run_readTxFlen hidle hhost
  obtain ⟨n, byte, hcopy⟩ := State.run_hostCopy (j := 0) (rest := hostSetRx f.length ++ rest)
    (s := s.withPorts (hostCopy 0 f.length ++ (hostSetRx f.length ++ rest)) s.regs.txFlenHi) hidle rfl (by omega)
    fun k hk => (congrArg (fun i => s.mem.read (Buffer.txFrame.addr i)) (Nat.zero_add k)).trans (hf k hk)
  have hset := State.run_hostSetRx (n := f.length) (rest := rest)
    (s := State.withPorts { s with mem := s.mem.writeRange Buffer.rxFrame.base f } (hostSetRx f.length ++ rest) byte)
    hidle rfl (by omega)
  refine ⟨2 + n + 2, byte, ?_⟩
  rw [State.run_add 2 ((State.run_add n hread).trans hcopy)]
  exact hset

/-! ### `exec ENCODE` and `exec DECODE` -/

theorem State.run_hostExec_encode {s : State} {p : List Byte} {rest : List HostMove} (hidle : s.regs.busy = false)
    (hhost : s.host = hostExec .encode ++ rest) (hlen : p.length = s.regs.txPlen.toNat) (hp : p.length ≤ 253)
    (hholds : s.holds .txPayload p) :
    ∃ n t, s.run n = .next t ∧ t.host = rest ∧
      t.regs = (s.storeRequest (encodeFrame s.regs.txCmd p)).regs ∧
      t.mem = s.mem.writeRange Buffer.txFrame.base (encodeFrame s.regs.txCmd p) := by
  have hexec := exec_encode_of_holds (s := { s.start Instr.encode.opCode with latency := 0 }) hlen hp hholds
  obtain ⟨n, t, hrun, hregs, hmem, hrest, _⟩ := hostExecRunsTheOperation _ _ .encode _ hidle hhost hexec
  exact ⟨n, t, hrun, hrest, hregs, hmem⟩

theorem State.run_hostExec_decode {s : State} {f : List Byte} {c : Byte} {p : List Byte} {rest : List HostMove}
    (hidle : s.regs.busy = false) (hhost : s.host = hostExec .decode ++ rest) (hf : s.rxFrameOperand = some f)
    (hcheck : decodeFrame s.regs.rxFlen.toNat f = .accepted c p) :
    ∃ n t, s.run n = .next t ∧ t.host = rest ∧ t.regs = (s.acceptResponse c p).regs ∧
      t.mem = s.mem.writeRange Buffer.rxPayload.base p := by
  have hexec := exec_decode_of_accepted (s := { s.start Instr.decode.opCode with latency := 0 }) hf hcheck
  obtain ⟨n, t, hrun, hregs, hmem, hrest, _⟩ := hostExecRunsTheOperation _ _ .decode _ hidle hhost hexec
  exact ⟨n, t, hrun, hrest, hregs, hmem⟩

/-! ### The statement -/

/-- Settles O52: ENCODE leaves the frame in TX_FRAME, `loopback` takes it to RX_FRAME, and the frame check of a built
frame gives back what was sent; none of the three writes TX_PAYLOAD. -/
theorem loopbackRunReturnsThePayload : Obligations.LoopbackRunReturnsThePayload := by
  intro s p rest hidle hlen hp hholds hhost
  rw [List.append_assoc, List.append_assoc] at hhost
  have hframeLen := length_encodeFrame s.regs.txCmd p
  have hcheck := decodeFrame_encodeFrame s.regs.txCmd hp
  obtain ⟨n₁, s₁, hrun₁, hhost₁, hregs₁, hmem₁⟩ := State.run_hostExec_encode hidle hhost hlen hp hholds
  generalize encodeFrame s.regs.txCmd p = frame at hframeLen hcheck hregs₁ hmem₁
  have hidle₁ : s₁.regs.busy = false := by rw [hregs₁]; rfl
  obtain ⟨n₂, byte, hrun₂⟩ := State.run_hostLoopback hidle₁ (hframeLen ▸ hhost₁) (by omega)
    (State.holds_of_mem_eq hmem₁)
  have hflen : (BitVec.ofNat 16 frame.length).toNat = frame.length := by
    rw [BitVec.toNat_ofNat]
    omega
  generalize hs₂ : State.withPorts _ (hostExec .decode ++ rest) byte = s₂ at hrun₂
  have hregs₂ : s₂.regs = { s₁.regs with rxFlen := BitVec.ofNat 16 frame.length } := by rw [← hs₂]; rfl
  have hmem₂ : s₂.mem = s₁.mem.writeRange Buffer.rxFrame.base frame := by rw [← hs₂]; rfl
  have hrxFlen₂ : s₂.regs.rxFlen.toNat = frame.length := by rw [hregs₂]; exact hflen
  have hoperand : s₂.rxFrameOperand = some frame := State.rxFrameOperand_of_holds
    (by rw [Regs.rxHeld_of_five_le (by omega), hrxFlen₂]; omega) (State.holds_of_mem_eq hmem₂)
  obtain ⟨n₃, t, hrun₃, hhost₃, hregs₃, hmem₃⟩ := State.run_hostExec_decode (rest := rest)
    (by rw [hregs₂]; exact hidle₁) (by rw [← hs₂]; rfl) hoperand (hrxFlen₂ ▸ hcheck)
  refine ⟨n₁ + (n₂ + n₃), t, ?_, hhost₃, ?_⟩
  · rw [State.run_add _ hrun₁, State.run_add _ hrun₂, hrun₃]
  · rw [hregs₃]
    refine ⟨rfl, rfl, rfl, rfl, ?_, State.holds_of_mem_eq hmem₃, fun k hk => ?_⟩
    · rw [State.acceptResponse_regs, hlen, BitVec.ofNat_toNat, BitVec.setWidth_eq]
    · have hkeep {b : Buffer} (m : Memory) {bs : List Byte} (hne : .txPayload ≠ b) (hfit : bs.length ≤ b.size) :=
        m.read_writeRange_other_buffer hne hfit (hk.trans_le hp)
      rw [hmem₃, hkeep _ (by decide) hp, hmem₂, hkeep _ (by decide) (by rw [hframeLen, Buffer.size]; omega), hmem₁,
        hkeep _ (by decide) (by rw [hframeLen, Buffer.size]; omega)]
      exact hholds k hk

end Sys2Proof.Machine
end

section
/-! The command catalog: what a built request leaves in the buffers and registers, for the wire commands and for the
operations that build them (spec/41 R140 to R143, R146). -/

namespace Sys2Proof.Machine

/-! ### The outputs of a built request -/

theorem State.buildRequest_holds_txFrame (s : State) (c : Byte) (p : List Byte) :
    (s.buildRequest c p).holds .txFrame (encodeFrame c p) :=
  State.holds_of_mem_eq rfl

/-- The frame is stored after the payload, past the end of TX_PAYLOAD (spec/20 R61). -/
theorem State.buildRequest_holds_txPayload (s : State) (c : Byte) {p : List Byte} (hp : p.length ≤ 253) :
    (s.buildRequest c p).holds .txPayload p := fun k hk => by
  have hbefore : Buffer.txPayload.addr k < Buffer.txFrame.base := by
    simp only [Buffer.addr, Buffer.base]
    omega
  exact (Memory.read_writeRange_outside _ _ (by omega)).trans (s.mem.read_writeRange_inside _ p hk)

theorem State.buildRequest_regs (s : State) (c : Byte) (p : List Byte) :
    (s.buildRequest c p).regs = { s.regs with
      busy := false, done := true, ack := false, result := .ok, txCmd := c, txPlen := BitVec.ofNat 8 p.length,
      txFlen := BitVec.ofNat 9 (p.length + 5) } := by
  rw [← length_encodeFrame c p]
  rfl

/-- A built request writes its payload's bytes and its frame's bytes only (spec/10 R39, R40). -/
theorem State.read_buildRequest_outside (s : State) (c : Byte) {p : List Byte} {a : Nat}
    (hpayload : ¬(0x100 ≤ a ∧ a < 0x100 + p.length)) (hframe : ¬(0x200 ≤ a ∧ a < 0x205 + p.length)) :
    (s.buildRequest c p).mem.read a = s.mem.read a := by
  have hstored : ¬(Buffer.txFrame.base ≤ a ∧ a < Buffer.txFrame.base + (encodeFrame c p).length) := by
    simp only [Buffer.base, length_encodeFrame]
    omega
  exact (Memory.read_writeRange_outside _ _ hstored).trans (Memory.read_writeRange_outside _ _ hpayload)

/-! ### Wire commands -/

/-- A wire command's bytes are the frame of its COMMAND_ID and payload, which fits (spec/30 R80, R88). -/
theorem encode_wireRequest {i : Instr} {c : Byte} {p : List Byte} (hi : wireRequest i = some (c, p)) :
    encode i = encodeFrame c p ∧ p.length ≤ 253 := by
  cases i with
  | generalStatusQuery | resetWorkTimeCounter | setModeAndPriority => cases hi; exact ⟨rfl, by simp⟩
  | nop | encode | decode | encStatusQuery | encResetWorktime | encSetMode | statusExtract | softReset
  | illegalOp _ => cases hi

/-- The seven bytes of a SetModeAndPriority request (spec/41 R143). -/
theorem encode_setModeAndPriority (mode priority : Byte) :
    encode (.setModeAndPriority mode priority) = [0x5A, 0x5A, 0x04, 0x03, mode + 1, priority + 2,
      ((0x04 + 0x03 + mode + priority) ^^^ 0xFF) + 3] := by
  have hsum : sum8 [0x04, 0x03, mode, priority] = 0x04 + 0x03 + mode + priority := by
    simp only [sum8, add_zero, add_assoc]
  rw [← hsum]
  rfl

/-! ### The statements -/

/-- Settles O21: the request a wire command's meaning builds, output by output. -/
theorem wireCommandBuildsItsOwnFrame : Obligations.WireCommandBuildsItsOwnFrame := by
  intro i c p s hi
  obtain ⟨hencode, hp⟩ := encode_wireRequest hi
  rw [hencode]
  exact ⟨_, exec_wireRequest hi s, s.buildRequest_holds_txFrame c p, s.buildRequest_holds_txPayload c hp,
    s.buildRequest_regs c p, ⟨⟨rfl, rfl, rfl, rfl⟩, rfl⟩, fun _ => s.read_buildRequest_outside c⟩

/-- A wire command without payload writes its five frame bytes and its registers (spec/41 R141, R142). -/
theorem exec_wireRequest_nil {i : Instr} {c : Byte} (hi : wireRequest i = some (c, [])) (s : State) :
    ∃ t, exec i s = .next t ∧ t.holds .txFrame (encode i) ∧
      t.regs = { s.regs with
        busy := false, done := true, ack := false, result := .ok, txCmd := c, txPlen := 0, txFlen := 5 } ∧
      s.sameRest t ∧ s.sameOutside t .txFrame 5 := by
  obtain ⟨t, ht, hframe, -, hregs, hrest, hmem⟩ := wireCommandBuildsItsOwnFrame i c [] s hi
  exact ⟨t, ht, hframe, hregs, hrest, fun a => hmem a (by simp)⟩

/-- Settles O19: each operation means what the wire command it builds means. -/
theorem fixedRequestsAreBuilt : Obligations.FixedRequestsAreBuilt :=
  ⟨rfl, rfl, fun s => ⟨exec_wireRequest_nil (i := .generalStatusQuery) rfl s,
    exec_wireRequest_nil (i := .resetWorkTimeCounter) rfl s⟩⟩

/-- Settles O20: the wire command of the arguments in MODE_ARG and PRIO_ARG, its frame spelled out. -/
theorem setModeRequestIsBuilt : Obligations.SetModeRequestIsBuilt := by
  refine ⟨rfl, fun s => ?_⟩
  obtain ⟨t, ht, hframe, hpayload, hregs, hrest, hmem⟩ :=
    wireCommandBuildsItsOwnFrame (.setModeAndPriority s.regs.modeArg s.regs.prioArg) _ _ s rfl
  rw [encode_setModeAndPriority] at hframe
  exact ⟨t, ht, hframe, hpayload, hregs, hrest, hmem⟩

end Sys2Proof.Machine
end

section
/-! STATUS_EXTRACT: the payload bytes it reads, the record it makes of them and the payloads it refuses
(spec/42 R160 to R175). -/

namespace Sys2Proof.Machine

/-! ### The BCD function -/

theorem toNat_high_nibble (b : Byte) : (b >>> 4).toNat = b.toNat / 16 := by
  rw [BitVec.toNat_ushiftRight, Nat.shiftRight_eq_div_pow]

theorem toNat_low_nibble (b : Byte) : (b &&& 0x0F).toNat = b.toNat % 16 := by
  rw [BitVec.toNat_and]
  exact Nat.and_two_pow_sub_one_eq_mod b.toNat 4

/-- No byte makes the BCD function wrap: 15 tens and 15 ones are 165 (spec/42 R163). -/
theorem toNat_bcd (b : Byte) : (bcd b).toNat = b.toNat / 16 * 10 + b.toNat % 16 := by
  have hten : (10 : Byte).toNat = 10 := rfl
  have := b.isLt
  rw [bcd, BitVec.toNat_add, BitVec.toNat_mul, hten, toNat_high_nibble, toNat_low_nibble]
  omega

/-! ### The bytes a record is made of -/

/-- A record depends on the payload bytes at the named offsets alone (spec/42 R174). -/
theorem StatusRecord.ofPayload_congr {p q : Nat → Byte} (h : ∀ k ∈ statusOffsets, p k = q k) :
    StatusRecord.ofPayload p = StatusRecord.ofPayload q := by
  simp only [statusOffsets, List.forall_mem_cons] at h
  simp only [StatusRecord.ofPayload, h]

/-- Every named offset lies in the first 28 bytes (spec/42 R160, R174). -/
theorem lt_of_mem_statusOffsets {k : Nat} (h : k ∈ statusOffsets) : k < 28 :=
  (by decide : ∀ k ∈ statusOffsets, k < 28) k h

theorem State.written_of_holds {s : State} {b : Buffer} {bs : List Byte} (h : s.holds b bs) :
    s.written b bs.length := fun k hk => by
  rw [h k hk, List.getElem?_eq_getElem hk, Option.isSome_some]

theorem State.rxPayloadByte_of_holds {s : State} {p : List Byte} (h : s.holds .rxPayload p) {k : Nat}
    (hk : k < p.length) : s.rxPayloadByte k = p.getD k 0 := by
  rw [State.rxPayloadByte, h k hk, List.getD_eq_getElem?_getD]

theorem State.ofPayload_rxPayloadByte_of_holds {s : State} {p : List Byte} (hlen : p.length = 28)
    (h : s.holds .rxPayload p) : StatusRecord.ofPayload s.rxPayloadByte = StatusRecord.ofPayload (p.getD · 0) :=
  StatusRecord.ofPayload_congr fun _ hk =>
    State.rxPayloadByte_of_holds h (hlen ▸ lt_of_mem_statusOffsets hk)

/-! ### The outcomes -/

section Outcomes

variable {s : State}

theorem exec_statusExtract_noPayload (hack : s.regs.ack = false) :
    exec .statusExtract s = .next (s.refuseRecord .noPayload) :=
  (State.Completes.extractNoPayload hack).exec_eq

theorem exec_statusExtract_tooShort (hack : s.regs.ack = true) (hshort : s.regs.rxPlen.toNat < 28) :
    exec .statusExtract s = .next (s.refuseRecord .tooShortPayload) :=
  (State.Completes.extractTooShort hack hshort).exec_eq

/-- The 28 bytes up to the last named offset are enough (spec/42 R162). -/
theorem exec_statusExtract_of_written (hack : s.regs.ack = true) (hlong : 28 ≤ s.regs.rxPlen.toNat)
    (hwritten : s.written .rxPayload 28) : exec .statusExtract s = .next s.storeRecord := by
  have hread : s.statusReadable = true :=
    s.statusReadable_iff.mpr fun k hk => hwritten k (lt_of_mem_statusOffsets hk)
  exact (State.Completes.extractStores hack hlong hread).exec_eq

end Outcomes

/-- The registers STATUS_EXTRACT leaves depend on the registers and the named payload bytes alone (spec/42 R174). -/
theorem exec_statusExtract_congr {s s' t : State} (hregs : s'.regs = s.regs)
    (hbytes : ∀ k ∈ statusOffsets, s'.mem.read (Buffer.rxPayload.addr k) = s.mem.read (Buffer.rxPayload.addr k))
    (h : exec .statusExtract s = .next t) :
    ∃ t', exec .statusExtract s' = .next t' ∧ t'.regs = t.regs ∧ t'.mem = s'.mem := by
  obtain ⟨hack, rfl⟩ | ⟨hack, hshort, rfl⟩ | ⟨hack, hlong, hread, rfl⟩ := execStatusExtract_next h
  · refine ⟨_, exec_statusExtract_noPayload (hregs ▸ hack), ?_, rfl⟩
    rw [State.refuseRecord_regs, State.refuseRecord_regs, hregs]
  · refine ⟨_, exec_statusExtract_tooShort (hregs ▸ hack) (hregs ▸ hshort), ?_, rfl⟩
    rw [State.refuseRecord_regs, State.refuseRecord_regs, hregs]
  · have hread' : s'.statusReadable = true := s'.statusReadable_iff.mpr fun k hk => by
      rw [hbytes k hk]
      exact s.statusReadable_iff.mp hread k hk
    have hrecord : StatusRecord.ofPayload s'.rxPayloadByte = StatusRecord.ofPayload s.rxPayloadByte :=
      StatusRecord.ofPayload_congr fun k hk => by
        rw [State.rxPayloadByte, hbytes k hk, State.rxPayloadByte]
    refine ⟨_, (State.Completes.extractStores (hregs ▸ hack) (hregs ▸ hlong) hread').exec_eq, ?_, rfl⟩
    rw [State.storeRecord_regs, State.storeRecord_regs, hregs, hrecord]

/-! ### The statements -/

/-- Settles O14: each nibble is counted as a digit, and the bound is that of the record's BCD fields. -/
theorem bcdIsTheFormula : Obligations.BcdIsTheFormula := fun b => ⟨toNat_bcd b, bcd_toNat_le b⟩

/-- Settles O25: 28 held bytes give the record of those bytes. -/
theorem statusExtractWritesTheRecord : Obligations.StatusExtractWritesTheRecord := by
  intro s p hack hlong hlen hholds
  have hwritten : s.written .rxPayload 28 := hlen ▸ State.written_of_holds hholds
  refine ⟨_, exec_statusExtract_of_written hack hlong hwritten, ?_, rfl⟩
  rw [State.storeRecord_regs, State.ofPayload_rxPayloadByte_of_holds hlen hholds]
  rfl

/-- Settles O26: one outcome lemma for each clause. -/
theorem statusExtractPreconditions : Obligations.StatusExtractPreconditions := fun _ =>
  ⟨fun hack => ⟨_, exec_statusExtract_noPayload hack, rfl⟩,
    fun hack hshort => ⟨_, exec_statusExtract_tooShort hack hshort, rfl⟩,
    fun hack hlen hwritten => ⟨_, exec_statusExtract_of_written hack hlen.ge hwritten, rfl⟩⟩

/-- Settles O27: no named offset is one of the eight excluded. -/
theorem statusExtractIgnoresUnnamedOffsets : Obligations.StatusExtractIgnoresUnnamedOffsets := by
  intro s s' t hregs hbytes h
  have hnamed : ∀ k ∈ statusOffsets, k ∉ [0, 11, 12, 14, 15, 19, 22, 26] := by decide
  exact exec_statusExtract_congr hregs (fun k hk => hbytes k (lt_of_mem_statusOffsets hk) (hnamed k hk)) h

/-- Settles O48: under the invariant an acknowledged payload of 28 bytes or more has each of its first 28. -/
theorem statusExtractNeverStops : Obligations.StatusExtractNeverStops := by
  intro s hs
  cases hack : s.regs.ack with
  | false => exact ⟨_, exec_statusExtract_noPayload hack, .inr (.inl rfl)⟩
  | true =>
    obtain hshort | hlong := Nat.lt_or_ge s.regs.rxPlen.toNat 28
    · exact ⟨_, exec_statusExtract_tooShort hack hshort, .inr (.inr rfl)⟩
    · have hwritten : s.written .rxPayload 28 := fun k hk => hs.payloadWritten hack k (hk.trans_le hlong)
      exact ⟨_, exec_statusExtract_of_written hack hlong hwritten, .inl rfl⟩

end Sys2Proof.Machine
end

section
/-! The control operations: when an operation completes and when it stops, what SOFT_RESET leaves, the start of an
operation and its completion after the latency (spec/43 R180 to R186, spec/70 R231, R241). -/

namespace Sys2Proof.Machine

/-! ### Registers at their reset values -/

theorem eq_record_offset {off : Offset} (hlow : 0x020 ≤ off.toNat) (hhigh : off.toNat ≤ 0x034) :
    ∃ k < 21, off = BitVec.ofNat 11 (0x020 + k) :=
  ⟨off.toNat - 0x020, by omega, by rw [Nat.add_sub_cancel' hlow, BitVec.ofNat_toNat, BitVec.setWidth_eq]⟩

/-- With the registers at their reset values, but for DONE, every register byte other than STATUS reads 0x00
(spec/10 R22, spec/43 R181). -/
theorem State.windowRead_of_reset_regs {s : State} {done : Bool} {off : Offset}
    (hregs : s.regs = { Regs.reset with done := done }) (hoff : registerOffset off) (hstatus : off ≠ statusOffset) :
    s.windowRead off = some 0x00 := by
  obtain hlow | ⟨hlow, hhigh⟩ := hoff
  · have hread : ∀ n < 12, n ≠ 1 →
        ({ Regs.reset with done := done } : Regs).readReg (regMap.getD n .ctrl) = 0x00 := by
      cases done <;> decide
    have hne : off.toNat ≠ 1 := fun h => hstatus (BitVec.eq_of_toNat_eq h)
    rw [State.windowRead, locate_low (Nat.lt_succ_of_le hlow), hregs]
    exact congrArg some (hread off.toNat (Nat.lt_succ_of_le hlow) hne)
  · have hrecord : ∀ k < 21, StatusRecord.reset.toList[k]? = some 0x00 := by decide
    obtain ⟨k, hk, rfl⟩ := eq_record_offset hlow hhigh
    rw [s.windowRead_record hk, hregs]
    exact hrecord k hk

/-! ### When an operation completes -/

/-- ENCODE's operand has a value exactly when each of its bytes has one (spec/70 R231). -/
theorem State.txPayloadOperand_isSome (s : State) :
    s.txPayloadOperand.isSome = true ↔ s.written .txPayload s.regs.txPlen.toNat :=
  Memory.readRange_isSome _ _ _

/-- DECODE's operand has a value exactly when each of its bytes has one (spec/70 R231). -/
theorem State.rxFrameOperand_isSome (s : State) :
    s.rxFrameOperand.isSome = true ↔ s.written .rxFrame s.regs.rxHeld :=
  Memory.readRange_isSome _ _ _

/-- A CTRL operation whose operands have values completes (spec/43 R185, R186). -/
theorem State.Ready.completes {s : State} {i : Instr} (hi : wireRequest i = none) (h : s.Ready i) :
    ∃ t, s.Completes i t := by
  cases i with
  | nop => exact ⟨_, .nop⟩
  | encode =>
    obtain hlong | hfits := Nat.lt_or_ge 253 s.regs.txPlen.toNat
    · exact ⟨_, .encodeRefuses hlong⟩
    · obtain ⟨payload, hoperand⟩ := Option.isSome_iff_exists.mp (s.txPayloadOperand_isSome.mpr (h hfits))
      exact ⟨_, .encodeStores payload hfits hoperand⟩
  | decode =>
    obtain ⟨held, hoperand⟩ := Option.isSome_iff_exists.mp (s.rxFrameOperand_isSome.mpr h)
    cases hcheck : decodeFrame s.regs.rxFlen.toNat held with
    | accepted command payload => exact ⟨_, .decodeAccepts held command payload hoperand hcheck⟩
    | rejected error => exact ⟨_, .decodeRejects held error hoperand hcheck⟩
  | encStatusQuery => exact ⟨_, .encStatusQuery⟩
  | encResetWorktime => exact ⟨_, .encResetWorktime⟩
  | encSetMode => exact ⟨_, .encSetMode⟩
  | statusExtract =>
    cases hack : s.regs.ack with
    | false => exact ⟨_, .extractNoPayload hack⟩
    | true =>
      obtain hshort | hlong := Nat.lt_or_ge s.regs.rxPlen.toNat 28
      · exact ⟨_, .extractTooShort hack hshort⟩
      · exact ⟨_, .extractStores hack hlong (s.statusReadable_iff.mpr (h hack hlong))⟩
  | softReset => exact ⟨_, .softReset⟩
  | illegalOp code => exact ⟨_, .illegalOp code⟩
  | generalStatusQuery | resetWorkTimeCounter | setModeAndPriority _ _ => cases hi

theorem exec_of_ready {i : Instr} {s : State} (h : s.Ready i) :
    ∃ t, exec i s = .next t ∧ t.regs.busy = false ∧ t.regs.done = true := by
  cases hi : wireRequest i with
  | none =>
    obtain ⟨t, ht⟩ := h.completes hi
    exact ⟨t, ht.exec_eq, ht.busy_done⟩
  | some request => exact ⟨_, exec_wireRequest hi s, rfl, rfl⟩

/-! ### When an operation stops -/

theorem exec_encode_unwritten {s : State} (hfits : s.regs.txPlen.toNat ≤ 253)
    (h : ¬s.written .txPayload s.regs.txPlen.toNat) : exec .encode s = .fault .unwrittenOperand := by
  have hnone : s.txPayloadOperand = none := by
    rwa [← s.txPayloadOperand_isSome, Option.not_isSome_iff_eq_none] at h
  simp [exec, execEncode, State.performEncode, Nat.not_lt.mpr hfits, hnone]

theorem exec_decode_unwritten {s : State} (h : ¬s.written .rxFrame s.regs.rxHeld) :
    exec .decode s = .fault .unwrittenOperand := by
  have hnone : s.rxFrameOperand = none := by
    rwa [← s.rxFrameOperand_isSome, Option.not_isSome_iff_eq_none] at h
  simp [exec, execDecode, hnone]

theorem exec_statusExtract_unwritten {s : State} (hack : s.regs.ack = true) (hlong : 28 ≤ s.regs.rxPlen.toNat)
    (h : ¬∀ k ∈ statusOffsets, (s.mem.read (Buffer.rxPayload.addr k)).isSome = true) :
    exec .statusExtract s = .fault .unwrittenOperand := by
  rw [← s.statusReadable_iff] at h
  simp [exec, execStatusExtract, hack, Nat.not_lt.mpr hlong, h]

/-- Only ENCODE, DECODE and STATUS_EXTRACT have operands a state can lack (spec/30 R93, spec/70 R231). -/
theorem exec_of_not_ready {i : Instr} {s : State} (h : ¬s.Ready i) : exec i s = .fault .unwrittenOperand := by
  cases i with
  | encode =>
    obtain ⟨hfits, hunwritten⟩ := Classical.not_imp.mp h
    exact exec_encode_unwritten hfits hunwritten
  | decode => exact exec_decode_unwritten h
  | statusExtract =>
    obtain ⟨hack, h⟩ := Classical.not_imp.mp h
    obtain ⟨hlong, hunwritten⟩ := Classical.not_imp.mp h
    exact exec_statusExtract_unwritten hack hlong hunwritten
  | _ => exact absurd trivial h

/-! ### The latency of an idle host -/

/-- Without a move of the host a step of the latency passes. -/
theorem step_idle_waiting {s : State} (hbusy : s.regs.busy = true) (hwait : 0 < s.latency) (hhost : s.host = []) :
    step s = .next { s with latency := s.latency - 1 } := by
  have hturn : s.hostTurn = .next s.tick := by rw [State.hostTurn, hhost]
  rw [step_host_waiting hwait, hturn, s.tick_busy hbusy]

/-- An idle host passes the whole latency (spec/70 R247). -/
theorem State.run_latency_of_idle {s : State} (hbusy : s.regs.busy = true) (hhost : s.host = []) :
    s.run s.latency = .next { s with latency := 0 } := by
  generalize hn : s.latency = n
  induction n generalizing s with
  | zero => rw [State.run_zero, ← hn]
  | succ n ih =>
    have hrest := ih (s := { s with latency := s.latency - 1 }) hbusy hhost (by simp [hn])
    rw [State.run_succ_next n (step_idle_waiting hbusy (by omega) hhost), hrest]

/-- The step after the latency has passed is the operation's own (spec/43 R185). -/
theorem State.run_completes {s t : State} (hwait : s.run s.latency = .next t) (hbusy : t.regs.busy = true)
    (hlatency : t.latency = 0) : s.run (s.latency + 1) = exec (decodeCtrl t.pendingOp) t := by
  rw [State.run_add 1 hwait, State.run_one, step_codec hbusy hlatency]

/-! ### Placing an instruction -/

/-- The operation a well-formed instruction's CTRL value starts has the instruction's meaning where its arguments are
placed: for a wire command it builds its request (spec/30 R90, spec/41 R140). -/
theorem exec_decodeCtrl_opCode_issue {i : Instr} (hi : i.wf = true) (s : State) :
    exec (decodeCtrl i.opCode) (State.issue i s) = exec i (State.issue i s) := by
  cases i with
  | illegalOp code =>
    rw [Instr.opCode, decodeCtrl_of_unassigned ((wf_illegalOp_iff code).mp hi)]
  | _ => rfl

theorem State.withFetchWord_of_decodeTableWord {nbits w : Nat} {i : Instr} (h : decodeTableWord nbits w = some i)
    (s : State) : s.withFetchWord nbits w = State.issue i s := by
  rw [State.withFetchWord, h]

/-! ### The statements -/

/-- Settles O17: SOFT_RESET leaves the reset registers but for DONE, and touches nothing else. -/
theorem softResetClearsRegistersAndKeepsBuffers : Obligations.SoftResetClearsRegistersAndKeepsBuffers := by
  have hstatus : (Regs.reset.completed .ok).statusByte = 0x02 := by decide
  exact ⟨rfl, fun s => ⟨s.softReset, rfl, fun _ => State.windowRead_of_reset_regs rfl, congrArg some hstatus, rfl,
    fun _ => rfl, ⟨rfl, rfl, rfl, rfl⟩, rfl⟩⟩

/-- Settles O29: the operands an operation reads decide between its completion and the one fault. -/
theorem everyOperationCompletes : Obligations.EveryOperationCompletes := fun _ _ => ⟨exec_of_ready, exec_of_not_ready⟩

/-- Settles O50: idle steps and polls pass the latency and leave the operation pending. -/
theorem startedOperationCompletes : Obligations.StartedOperationCompletes := fun _ hbusy =>
  ⟨fun hhost => State.run_completes (State.run_latency_of_idle hbusy hhost) hbusy rfl,
    fun _ hhost => State.run_completes (State.run_latency_of_poll hbusy hhost) hbusy rfl⟩

/-- Settles O34: the codec's step runs the operation of PENDING_OP, which has the placed instruction's meaning. -/
theorem stepRunsThePendingInstruction : Obligations.StepRunsThePendingInstruction :=
  ⟨fun _ => step_codec, fun _ s hi => (step_codec rfl rfl).trans (exec_decodeCtrl_opCode_issue hi s),
    fun s _ _ _ h => s.withFetchWord_of_decodeTableWord h⟩

/-- Settles O35: the write of an idle block is the start step, that of a busy one the hazard. -/
theorem ctrlWriteStartsAnOperation : Obligations.CtrlWriteStartsAnOperation := fun _ _ _ hhost =>
  ⟨fun hidle => ⟨_, step_write_ctrl hidle hhost, rfl, rfl, rfl, rfl, rfl⟩,
    fun hbusy hwait => step_write_hazard hbusy hwait hhost⟩

end Sys2Proof.Machine
end

section
/-! Reset, bytes nothing has written, and accesses while an operation runs: what RST clears, where an access or an
operation stops, and which outputs the host can always read (spec/70 R230 to R232, R240, R242). -/

namespace Sys2Proof.Machine

/-! ### Hardware reset -/

/-- With every register at its reset value, every register byte reads 0x00, STATUS too (spec/70 R230, spec/10 R22). -/
theorem State.windowRead_of_regs_eq_reset {s : State} {off : Offset} (hregs : s.regs = Regs.reset)
    (hoff : registerOffset off) : s.windowRead off = some 0x00 := by
  by_cases hstatus : off = statusOffset
  · have hbyte : Regs.reset.statusByte = 0x00 := by decide
    rw [hstatus, ← hbyte, ← hregs]
    rfl
  · exact State.windowRead_of_reset_regs (done := false) hregs hoff hstatus

/-- An RST that lands before the running operation's completion, if one runs, resets the block at once
(spec/70 R230, R232). -/
theorem step_rst {s : State} {rest : List HostMove} (hturn : s.codecTurn = false) (hhost : s.host = .rst :: rest) :
    step s = .next ({ s with host := rest }).hardReset := by
  simp [step, hturn, State.hostTurn, hhost]

/-! ### Reads of buffer bytes -/

/-- A read of a byte nothing has written since reset stops by name (spec/70 R231). -/
theorem step_read_unwritten {s : State} {off : Offset} {rest : List HostMove} (hidle : s.regs.busy = false)
    (hhost : s.host = .read off :: rest) (hread : s.windowRead off = none) : step s = .fault (.unwrittenRead off) := by
  have hread' : ({ s with host := rest }).windowRead off = none := hread
  rw [step_host_idle hidle]
  simp [State.hostTurn, hhost, State.readMove, hidle, hread']

/-- Any of a buffer's first `n` bytes, when all of them have values, can be read from an idle block. -/
theorem step_read_written {s : State} {b : Buffer} {n k : Nat} {rest : List HostMove} (hidle : s.regs.busy = false)
    (hwritten : s.written b n) (hk : k < n) (hfit : n ≤ b.size) (hhost : s.host = .read (b.offset k) :: rest) :
    ∃ v, s.mem.read (b.addr k) = some v ∧ step s = .next (s.withPorts rest v) := by
  obtain ⟨v, hv⟩ := Option.isSome_iff_exists.mp (hwritten k hk)
  exact ⟨v, hv, step_read_buffer hidle hhost (hk.trans_le hfit) hv⟩

/-! ### Writes while an operation runs -/

/-- The copying write is a hazard as the plain write is (spec/70 R240). -/
theorem step_writeLast_hazard {s : State} {off : Offset} {rest : List HostMove} (hbusy : s.regs.busy = true)
    (hwait : 0 < s.latency) (hhost : s.host = .writeLast off :: rest) : step s = .fault .hazard := by
  rw [step_host_waiting hwait]
  simp [State.hostTurn, hhost, State.writeMove, hbusy]

/-! ### The statements -/

/-- Settles O43: both states have the reset registers and an empty buffer memory. -/
theorem hardwareResetClearsEverything : Obligations.HardwareResetClearsEverything :=
  ⟨fun _ => State.windowRead_of_regs_eq_reset rfl, fun _ _ hturn hhost =>
    ⟨_, step_rst hturn hhost, rfl, rfl, fun _ => State.windowRead_of_regs_eq_reset rfl, fun _ _ => rfl⟩⟩

/-- Settles O28: ENCODE and DECODE lack an operand, a host read finds no byte, and the reset memory is empty. -/
theorem unwrittenBytesStop : Obligations.UnwrittenBytesStop := by
  refine ⟨fun _ => exec_encode_unwritten, fun s hlen h => ?_, fun s b k _ hidle hk hhost hread => ?_, fun _ _ => rfl⟩
  · rw [← Regs.rxHeld_of_five_le hlen] at h
    exact exec_decode_unwritten h
  · exact step_read_unwritten hidle hhost ((s.windowRead_offset b hk).trans hread)

/-- Settles O49: the invariant gives the counted bytes values and keeps the counts within their buffers. -/
theorem meaningfulOutputsCanBeRead : Obligations.MeaningfulOutputsCanBeRead := by
  intro s k rest hs hidle
  have hframe : s.regs.txFlen.toNat ≤ Buffer.txFrame.size := by
    obtain hnone | ⟨-, hmax⟩ := hs.txFlenLegal
    · exact hnone.trans_le (Nat.zero_le _)
    · exact hmax
  exact ⟨fun hk => step_read_written hidle hs.frameWritten hk hframe,
    fun hack hk => step_read_written hidle (hs.payloadWritten hack) hk hs.rxPlenLegal⟩

/-- Settles O36: the three hazards, and the STATUS read, whose byte has BUSY as bit 0. -/
theorem onlyStatusMayBeReadWhileBusy : Obligations.OnlyStatusMayBeReadWhileBusy := by
  intro s off rest hbusy hwait
  refine ⟨step_read_hazard hbusy hwait, fun _ => step_write_hazard hbusy hwait, step_writeLast_hazard hbusy hwait,
    fun hhost => ⟨_, step_read_status_waiting hbusy hwait hhost, rfl, ?_, rfl, rfl, rfl, rfl⟩⟩
  exact s.regs.statusByte_fields.1.trans hbusy

/-- Settles O45: reset registers and an empty, so canonical, memory. -/
theorem resetMeetsTheInvariant : Obligations.ResetMeetsTheInvariant :=
  State.inv_of_reset_regs false Memory.wf_nil rfl

end Sys2Proof.Machine
end
